-- ==== Sys2Proof/Word.lean ====
section
/-! DEFINITION. The word types of the core: widths of 00_scope.md R6 and 30_encoding.md R70. -/

namespace Sys2Proof

/-- A 32-bit word; every word is unsigned and `+` on it is addition modulo 2^32 (R6, R9, R10). -/
abbrev Word := BitVec 32

/-- One input or output octet (R27). -/
abbrev Byte := BitVec 8

/-- A command word, `cmd[15:0]` (R70). -/
abbrev CmdWord := BitVec 16

end Sys2Proof
end

