-- ==== Sys2Proof/Syntax.lean ====
section
/-! DEFINITION. The command set: one constructor per row of spec/opcode_table.json (30_encoding.md R72). -/

namespace Sys2Proof

/-- The six commands. The only operand of the command set is the data byte of WRITE_BYTE, an unsigned 8-bit value used as
is (R71). -/
inductive Instr where
  /-- NOP (R200) -/
  | nop
  /-- WRITE_BYTE (R201) -/
  | writeByte (x : Byte)
  /-- CLEAR_INPUT (R202) -/
  | clearInput
  /-- START (R203) -/
  | start
  /-- RESET_STATE (R206) -/
  | resetState
  /-- CLEAR_STATUS (R207) -/
  | clearStatus
  deriving DecidableEq, Repr

end Sys2Proof
end

