-- ==== Sys2Proof/WellFormed.lean ====
section
/-! DEFINITION. Well-formedness. An `Instr` is well formed by its type (its one operand is 8 bits wide); what can be ill
formed is a line of a textual command stream (30_encoding.md R76, R77), and the checks are on those. -/

namespace Sys2Proof

/-- Every command is well formed: R72's legal operands are exactly the values the type `Instr` holds. -/
def Instr.wellFormed : Instr → Bool
  | .nop => true
  | .writeByte _ => true
  | .clearInput => true
  | .start => true
  | .resetState => true
  | .clearStatus => true

/-- The mnemonics of R72. -/
inductive Mnemonic where
  | nop | writeByte | clearInput | start | resetState | clearStatus
  deriving DecidableEq, Repr

/-- One line of a command stream after its words are told apart (R76, R77). Operands are plain numbers here, so that the
checks below can refuse one. -/
inductive SourceLine where
  /-- A mnemonic of R72 and the operands written after it. -/
  | command (m : Mnemonic) (operands : List Nat)
  /-- `.word 0xHHHH`, the form R76 gives for illegal words. DESIGN CHOICE (log entry 5): it may spell a legal word too. -/
  | rawWord (w : Nat)
  /-- `LOAD20 x0, ..., x19` (R77). -/
  | load20 (xs : List Nat)
  /-- `HASH20 x0, ..., x19` (R77). -/
  | hash20 (xs : List Nat)
  /-- `WAIT` (R77). -/
  | wait
  deriving DecidableEq, Repr

/-- An operand of a stream is an integer 0..255 (R76). -/
def operandInRange (x : Nat) : Bool := decide (x ≤ 255)

/-- The twenty operands of LOAD20 and HASH20 (R77). -/
def twentyOperands (xs : List Nat) : Bool := decide (xs.length = 20) && xs.all operandInRange

/-- A line spells commands (R76): WRITE_BYTE with exactly one operand in range, every other mnemonic with none, a raw word
of 16 bits, LOAD20 and HASH20 with twenty operands in range. DESIGN CHOICE (log entry 5): a raw word may be legal or illegal,
where R76 speaks of illegal words only, and LOAD20 and HASH20 are refused by count and range. -/
def SourceLine.wellFormed : SourceLine → Bool
  | .command .writeByte [x] => operandInRange x
  | .command .writeByte _ => false
  | .command .nop xs => xs.isEmpty
  | .command .clearInput xs => xs.isEmpty
  | .command .start xs => xs.isEmpty
  | .command .resetState xs => xs.isEmpty
  | .command .clearStatus xs => xs.isEmpty
  | .rawWord w => decide (w < 65536)
  | .load20 xs => twentyOperands xs
  | .hash20 xs => twentyOperands xs
  | .wait => true

end Sys2Proof
end

