-- ==== Sys2Proof/Decode.lean ====
section
/-! DEFINITION. The command decoder, total on every 16-bit word (30_encoding.md R70 to R75), the encoder after it, and the
opcode table as mask and match rows (spec/opcode_table.json). -/

namespace Sys2Proof

/-- `op = cmd[15:8]` (R70). -/
def opField (w : CmdWord) : BitVec 8 := w.extractLsb' 8 8

/-- `arg = cmd[7:0]` (R70). -/
def argField (w : CmdWord) : Byte := w.extractLsb' 0 8

/-- Why a word is no command (R74). -/
inductive DecodeError where
  /-- `op` in 0x06..0xFF. -/
  | illegalOpcode
  /-- A legal opcode other than WRITE_BYTE with a non-zero `arg`. -/
  | reservedOperand
  deriving DecidableEq, Repr

/-- The decoder of R73: the opcode check comes before the operand check (R237), and a word that passes both selects its
command by `op` alone. -/
def decode (w : CmdWord) : Except DecodeError Instr :=
  let op := opField w
  let arg := argField w
  if 0x06#8 ≤ op then .error .illegalOpcode
  else if op ≠ 0x01#8 ∧ arg ≠ 0x00#8 then .error .reservedOperand
  else if op = 0x00#8 then .ok .nop
  else if op = 0x01#8 then .ok (.writeByte arg)
  else if op = 0x02#8 then .ok .clearInput
  else if op = 0x03#8 then .ok .start
  else if op = 0x04#8 then .ok .resetState
  else .ok .clearStatus

/-- The opcode of a command, the `op` column of R72. -/
def Instr.opcode : Instr → BitVec 8
  | .nop => 0x00
  | .writeByte _ => 0x01
  | .clearInput => 0x02
  | .start => 0x03
  | .resetState => 0x04
  | .clearStatus => 0x05

/-- The operand byte of a command: the data byte of WRITE_BYTE, otherwise 0 (R70). -/
def Instr.operandByte : Instr → Byte
  | .nop => 0x00
  | .writeByte x => x
  | .clearInput => 0x00
  | .start => 0x00
  | .resetState => 0x00
  | .clearStatus => 0x00

/-- The word of a command, `op` in bits 15:8 and `arg` in bits 7:0 (R70, R72). -/
def encode (i : Instr) : CmdWord := i.opcode ++ i.operandByte

/-- One row of spec/opcode_table.json: a word `w` is the row's when `w &&& mask = pattern`. -/
structure OpcodeRow where
  mnemonic : String
  pattern  : CmdWord
  mask     : CmdWord
  deriving DecidableEq, Repr

/-- The six rows of spec/opcode_table.json. -/
def opcodeTable : List OpcodeRow :=
  [⟨"NOP", 0x0000, 0xFFFF⟩, ⟨"WRITE_BYTE", 0x0100, 0xFF00⟩, ⟨"CLEAR_INPUT", 0x0200, 0xFFFF⟩,
   ⟨"START", 0x0300, 0xFFFF⟩, ⟨"RESET_STATE", 0x0400, 0xFFFF⟩, ⟨"CLEAR_STATUS", 0x0500, 0xFFFF⟩]

/-- The word `w` is one of the row `r`. -/
def OpcodeRow.matchesWord (r : OpcodeRow) (w : CmdWord) : Bool := w &&& r.mask == r.pattern

/-- The mnemonic of a command as the table spells it. -/
def Instr.mnemonic : Instr → String
  | .nop => "NOP"
  | .writeByte _ => "WRITE_BYTE"
  | .clearInput => "CLEAR_INPUT"
  | .start => "START"
  | .resetState => "RESET_STATE"
  | .clearStatus => "CLEAR_STATUS"

/-- The command read from a table word: `w` has the row's `nbits` bits, bits above them are 0, and a command is exactly one
16-bit word (R75), so a longer word is none. -/
def decodeTableWord (nbits w : Nat) : Option Instr :=
  let v := w % 2 ^ nbits
  if v < 65536 then (decode (BitVec.ofNat 16 v)).toOption else none

end Sys2Proof
end

