-- ==== Sys2Proof/Config.lean ====
section
/-! DEFINITION. What one instance of the core fixes and the spec leaves open: the parameter ACCUMULATE. -/

namespace Sys2Proof

/-- The instance parameter ACCUMULATE (R7) of the machine that `State.reset` describes. The spec fixes no value, so this
constant has no body: nothing can be proved of which of the two it is (log entry 1). Only `State.reset` reads it; every
other definition reads the field `State.accumulate`, which is free in every statement about all states. -/
opaque Config.accumulate : Bool

end Sys2Proof
end

