-- ==== Sys2Proof/Machine/Constants.lean ====
section
/-! DEFINITION. The wired-in constants of the core: the initial hash state, the round constants, the padding words. -/

namespace Sys2Proof.Machine

/-- `IV[0..4]` (R21). -/
def iv : Vector Word 5 := #v[0x67452301, 0xEFCDAB89, 0x98BADCFE, 0x10325476, 0xC3D2E1F0]

/-- The fixed padding word `B[5]` (R102). -/
def paddingWord : Word := 0x80000000

/-- The fixed length word `B[15]`, 160 bits (R102). -/
def lengthWord : Word := 0x000000A0

/-- `K_p`, the round constant of phase `p` (R145); `K_0` is the canonical value the source asks for (90_conflicts.md C2). -/
def roundConstant : Fin 4 → Word
  | 0 => 0x5A827999
  | 1 => 0x6ED9EBA1
  | 2 => 0x8F1BBCDC
  | 3 => 0xCA62C1D6

end Sys2Proof.Machine
end

