-- ==== Sys2Proof/Machine/State.lean ====
section
/-! DEFINITION. The state of the core (10_state.md R20 to R30), its input ports (30_encoding.md R79), the reasons a step can
stop, and the state after reset (70_reset_and_hazards.md R261). -/

namespace Sys2Proof.Machine

/-- The values of the input ports at one rising edge of `clk` (R12, R79). -/
structure PortIn where
  rst      : Bool
  cmdValid : Bool
  cmd      : CmdWord
  deriving DecidableEq, Repr

/-- The sequencer state FSM (R26). -/
inductive Fsm where
  /-- No transform is in progress and a command may be accepted. -/
  | idle
  /-- A round step happens at each edge. -/
  | run
  /-- The next edge performs the finalize step. -/
  | fin
  deriving DecidableEq, Repr

/-- The error codes of R30, one name for each value of the 2-bit register ERR. -/
inductive ErrCode where
  /-- code 0 -/
  | none
  /-- code 1 (R232) -/
  | invalidInputLength
  /-- code 2 (R234) -/
  | illegalCommand
  /-- code 3, reserved and never written by the hardware (R233) -/
  | allocationFailure
  deriving DecidableEq, Repr

/-- The five working registers (R23). -/
@[ext]
structure Working where
  (a b c d e : Word)
  deriving DecidableEq, Repr

/-- Everything the spec gives the core, and the input ports at the coming edges. -/
@[ext]
structure State where
  /-- The instance parameter ACCUMULATE (R7). No step writes it. -/
  accumulate : Bool
  /-- `H[0..4]` (R20). -/
  h          : Vector Word 5
  /-- `a, b, c, d, e` (R23). -/
  work       : Working
  /-- `Wr[0..15]` (R24). -/
  wr         : Vector Word 16
  /-- The round counter (R25). -/
  t          : BitVec 7
  /-- FSM (R26). -/
  fsm        : Fsm
  /-- `IBUF[0..19]` (R27). -/
  ibuf       : Vector Byte 20
  /-- IN_COUNT (R28). -/
  inCount    : BitVec 5
  /-- DONE (R29). -/
  done       : Bool
  /-- ERR (R30). -/
  err        : ErrCode
  /-- The model's own field: the input ports at the coming edges, the next edge first (log entry 2). -/
  ports      : List PortIn
  deriving DecidableEq, Repr

/-- The reasons the machine stops with a fault: none. The step is total and has a successor for every state and input
(R190); an error is a code in ERR and the core goes on (R230). So this type has no constructor, and nobody raises it. -/
inductive Fault
  deriving DecidableEq, Repr

/-- The reasons a step can be refused. -/
inductive Refusal where
  /-- An instruction without a meaning yet. No arm of `exec` answers it, every command has its meaning. Safe: it would only
  make claims unprovable. -/
  | notModelled (mnemonic : String)
  deriving DecidableEq, Repr

/-- The state after a reset edge of an instance whose ACCUMULATE is `acc` (R261), with no input offered yet. -/
def State.resetOf (acc : Bool) : State where
  accumulate := acc
  h          := iv
  work       := ⟨0, 0, 0, 0, 0⟩
  wr         := #v[0, 0, 0, 0, 0, 0, 0, 0, 0, 0, 0, 0, 0, 0, 0, 0]
  t          := 0#7
  fsm        := .idle
  ibuf       := #v[0, 0, 0, 0, 0, 0, 0, 0, 0, 0, 0, 0, 0, 0, 0, 0, 0, 0, 0, 0]
  inCount    := 0#5
  done       := false
  err        := .none
  ports      := []

/-- The machine right after reset, of an instance whose parameter is the bodiless `Config.accumulate` (log entry 1). -/
def State.reset : State := State.resetOf Config.accumulate

end Sys2Proof.Machine
end

