-- ==== Sys2Proof/Machine/Operands.lean ====
section
/-! DEFINITION. Word operators (00_scope.md R10), the byte order of data in and out (20_memory.md R51, 41_block_builder.md
R100, 44_digest_encoder.md R173), and five-word values. The only operand of a command is its data byte (R71). -/

namespace Sys2Proof.Machine

/-- `rotl(x, n)` for 0 < n < 32 (R10). -/
def rotl (x : Word) (n : Nat) : Word := (x <<< n) ||| (x >>> (32 - n))

/-- A word from four bytes, the first one the most significant (R51, R100). -/
def wordOfBytes (b0 b1 b2 b3 : Byte) : Word := b0 ++ b1 ++ b2 ++ b3

/-- Byte `k` of a word, 0 the most significant (R52, R173). -/
def byteOfWord (x : Word) (k : Nat) : Byte := x.extractLsb' (24 - 8 * k) 8

/-- BE decode: `M[0..4]` from the twenty bytes (R100). -/
def beDecode (x : Vector Byte 20) : Vector Word 5 :=
  #v[wordOfBytes x[0] x[1] x[2] x[3], wordOfBytes x[4] x[5] x[6] x[7], wordOfBytes x[8] x[9] x[10] x[11],
     wordOfBytes x[12] x[13] x[14] x[15], wordOfBytes x[16] x[17] x[18] x[19]]

/-- BE encode: `Y[0..19]` from five words (R173). -/
def beEncode (h : Vector Word 5) : Vector Byte 20 :=
  #v[byteOfWord h[0] 0, byteOfWord h[0] 1, byteOfWord h[0] 2, byteOfWord h[0] 3,
     byteOfWord h[1] 0, byteOfWord h[1] 1, byteOfWord h[1] 2, byteOfWord h[1] 3,
     byteOfWord h[2] 0, byteOfWord h[2] 1, byteOfWord h[2] 2, byteOfWord h[2] 3,
     byteOfWord h[3] 0, byteOfWord h[3] 1, byteOfWord h[3] 2, byteOfWord h[3] 3,
     byteOfWord h[4] 0, byteOfWord h[4] 1, byteOfWord h[4] 2, byteOfWord h[4] 3]

/-- The seed's words in the working registers, `(a, b, c, d, e) <- (S[0], ..., S[4])` (R140). -/
def Working.ofWords (s : Vector Word 5) : Working := ⟨s[0], s[1], s[2], s[3], s[4]⟩

/-- The feedback add: five additions modulo 2^32, no carry from one word to the next (R171). -/
def addWorking (s : Vector Word 5) (v : Working) : Vector Word 5 :=
  #v[s[0] + v.a, s[1] + v.b, s[2] + v.c, s[3] + v.d, s[4] + v.e]

/-- The seed of a transform: `H` in accumulator mode, `IV` in pure mode (R140, R171). -/
def seedOf (accumulate : Bool) (h : Vector Word 5) : Vector Word 5 := if accumulate then h else iv

end Sys2Proof.Machine
end

