-- ==== Sys2Proof/Machine/Block.lean ====
section
/-! DEFINITION. The fixed-padding block builder (41_block_builder.md). -/

namespace Sys2Proof.Machine

/-- The 16-word message block of the five input words (R102). -/
def block (m : Vector Word 5) : Vector Word 16 :=
  #v[m[0], m[1], m[2], m[3], m[4], paddingWord, 0, 0, 0, 0, 0, 0, 0, 0, 0, lengthWord]

/-- The block of the twenty input bytes, `Block(BE_decode(x))` (R100, R102). -/
def inputBlock (x : Vector Byte 20) : Vector Word 16 := block (beDecode x)

end Sys2Proof.Machine
end

