-- ==== Sys2Proof/Machine/Flags.lean ====
section
/-! DEFINITION. The outputs of the core, functions of the state alone (00_scope.md R12): the STATUS word and its flags
(10_state.md R31 to R33), `cmd_ready` (R34) and `dout` (R35). -/

namespace Sys2Proof.Machine

/-- The 2-bit code of an error (R30, R232 to R234). -/
def ErrCode.code : ErrCode → BitVec 2
  | .none => 0
  | .invalidInputLength => 1
  | .illegalCommand => 2
  | .allocationFailure => 3

/-- STATUS.BUSY: FSM is not IDLE (R32). -/
def State.busy (s : State) : Bool := decide (s.fsm ≠ .idle)

/-- The output `cmd_ready`: FSM is IDLE (R34). -/
def State.cmdReady (s : State) : Bool := decide (s.fsm = .idle)

/-- The STATUS word: six zero bits, ACCUMULATE, IN_COUNT, ERR, DONE, BUSY, most significant first (R32). -/
def State.status (s : State) : BitVec 16 :=
  0#6 ++ BitVec.ofBool s.accumulate ++ s.inCount ++ s.err.code ++ BitVec.ofBool s.done ++ BitVec.ofBool s.busy

/-- The output `dout`, `H[0]` most significant (R35). -/
def State.dout (s : State) : BitVec 160 := s.h[0] ++ s.h[1] ++ s.h[2] ++ s.h[3] ++ s.h[4]

end Sys2Proof.Machine
end

