-- ==== Sys2Proof/Machine/Schedule.lean ====
section
/-! DEFINITION. The message scheduler (42_message_schedule.md): the 80-word array as the source defines it, and the 16-word
sliding window the hardware holds. -/

namespace Sys2Proof.Machine

/-- The recurrence of R121, from the four words at offsets 3, 8, 14 and 16 back. -/
def scheduleWord (w3 w8 w14 w16 : Word) : Word := rotl (w3 ^^^ w8 ^^^ w14 ^^^ w16) 1

/-- The first `16 + n` words of the schedule of block `b`: the block (R120), then `n` words by the recurrence (R121). -/
def scheduleUpTo (b : Vector Word 16) : Nat → List Word
  | 0 => b.toList
  | n + 1 =>
    let ws := scheduleUpTo b n
    let i := n + 16
    ws ++ [scheduleWord (ws.getD (i - 3) 0) (ws.getD (i - 8) 0) (ws.getD (i - 14) 0) (ws.getD (i - 16) 0)]

/-- `W[i]` for i in 0..79 (R120, R121): the array has 80 words, 16 of the block and 64 by the recurrence. -/
def schedule (b : Vector Word 16) (i : Nat) : Word := (scheduleUpTo b 64).getD i 0

/-- The window one word further (R123): the taps are 13, 8, 2 and 0, every right side as before the edge. -/
def windowShift (wr : Vector Word 16) : Vector Word 16 :=
  #v[wr[1], wr[2], wr[3], wr[4], wr[5], wr[6], wr[7], wr[8], wr[9], wr[10], wr[11], wr[12], wr[13], wr[14], wr[15],
     scheduleWord wr[13] wr[8] wr[2] wr[0]]

/-- The window `n` RUN edges after it held the block `b` (R122, R123). -/
def windowAfter (b : Vector Word 16) : Nat → Vector Word 16
  | 0 => b
  | n + 1 => windowShift (windowAfter b n)

end Sys2Proof.Machine
end

