-- ==== Sys2Proof/Machine/Round.lean ====
section
/-! DEFINITION. The round pipeline (43_round_pipeline.md): phase select, round functions and constants, the round step, and
the 80 rounds as one function. -/

namespace Sys2Proof.Machine

/-- The phase of round `t` (R141), by the comparisons of its 2-bit select. -/
def phase (t : Nat) : Fin 4 := if t ≥ 60 then 3 else if t ≥ 40 then 2 else if t ≥ 20 then 1 else 0

/-- F1 (R142). -/
def f1 (b c d : Word) : Word := (b &&& c) ||| (~~~b &&& d)

/-- F2 (R143). -/
def f2 (b c d : Word) : Word := b ^^^ c ^^^ d

/-- F3 (R144). -/
def f3 (b c d : Word) : Word := (b &&& c) ||| (b &&& d) ||| (c &&& d)

/-- `F_p`, the round-function multiplexer (R145). -/
def roundFunction : Fin 4 → Word → Word → Word → Word
  | 0 => f1
  | 1 => f2
  | 2 => f3
  | 3 => f2

/-- `temp` of R146, five addends modulo 2^32. -/
def roundTemp (p : Fin 4) (w : Word) (v : Working) : Word :=
  rotl v.a 5 + roundFunction p v.b v.c v.d + v.e + w + roundConstant p

/-- The round step of R146 in phase `p` with schedule word `w`; every right side is the value before the edge. -/
def roundStep (p : Fin 4) (w : Word) (v : Working) : Working :=
  { a := roundTemp p w v, b := v.a, c := rotl v.b 30, d := v.c, e := v.d }

/-- The working registers after rounds 0 to `n - 1` on schedule `w`, from `v`. -/
def roundsUpTo (w : Nat → Word) (v : Working) : Nat → Working
  | 0 => v
  | n + 1 => roundStep (phase n) (w n) (roundsUpTo w v n)

/-- `Rounds(S, B)` (R150): rounds 0 to 79 from the seed, on the schedule of the block. -/
def rounds (s : Vector Word 5) (b : Vector Word 16) : Working := roundsUpTo (schedule b) (Working.ofWords s) 80

end Sys2Proof.Machine
end

