-- ==== Sys2Proof/Machine/Ops.lean ====
section
/-! DEFINITION. The named operations over the registers. The core has no addressed memory (20_memory.md R50), so there are
none over memory. -/

namespace Sys2Proof.Machine

/-- `raise E` (R231), the one way an error is reported: ERR takes the code and nothing else is written. There is no saved
state, no handler and no change of mode (R230, R238). -/
def raise (e : ErrCode) (s : State) : State := { s with err := e }

/-- What undoes a raised error (R239), the effect of CLEAR_STATUS: ERR and DONE become 0 (R207). -/
def clearFlags (s : State) : State := { s with err := .none, done := false }

/-- RESET_STATE's effect: `H <- IV`, DONE becomes 0 (R206). -/
def reloadHash (s : State) : State := { s with h := iv, done := false }

/-- CLEAR_INPUT's effect: IN_COUNT becomes 0, the bytes of IBUF stay (R202). -/
def clearCount (s : State) : State := { s with inCount := 0#5 }

/-- The input buffer after a byte arrives with the counter at `c` (R201): below 20 the byte is stored at place `c`, else it is
dropped. -/
def storeByte (ibuf : Vector Byte 20) (c : BitVec 5) (x : Byte) : Vector Byte 20 :=
  if room : c.toNat < 20 then ibuf.set c.toNat x room else ibuf

/-- The input counter after a byte arrives with it at `c` (R201, R28): it counts to 20, the 21st byte makes it 21, and there
it stays. -/
def nextCount (c : BitVec 5) : BitVec 5 :=
  if c.toNat < 20 then c + 1#5 else if c = 20#5 then 21#5 else c

/-- WRITE_BYTE's effect (R201). -/
def appendByte (x : Byte) (s : State) : State :=
  { s with ibuf := storeByte s.ibuf s.inCount x, inCount := nextCount s.inCount }

/-- The seed select, the same at the load edge and at the finalize edge (R140, R170, R171). -/
def State.seed (s : State) : Vector Word 5 := seedOf s.accumulate s.h

/-- The load edge of an accepted START (R203, R104, R140). -/
def loadTransform (s : State) : State :=
  { s with
    wr := inputBlock s.ibuf
    work := Working.ofWords s.seed
    t := 0#7
    fsm := .run
    done := false }

/-- The round counter after the round it holds (R191). -/
def nextRound (t : BitVec 7) : BitVec 7 := if t = 79#7 then 0#7 else t + 1#7

/-- The sequencer state after the round that the counter holds (R191). -/
def nextFsm (t : BitVec 7) : Fsm := if t = 79#7 then .fin else .run

/-- The RUN edge (R191): the round step (R146) and the window shift (R123) together, then the sequencer's advance. -/
def runEdge (s : State) : State :=
  { s with
    work := roundStep (phase s.t.toNat) s.wr[0] s.work
    wr := windowShift s.wr
    t := nextRound s.t
    fsm := nextFsm s.t }

/-- The FIN edge, the finalize step (R171, R192). -/
def finEdge (s : State) : State :=
  { s with h := addWorking s.seed s.work, done := true, fsm := .idle }

/-- The reset step (R261): every state element takes its reset value, ACCUMULATE is no state element and keeps its own, and
the ports belong to the host. -/
def resetStep (s : State) : State :=
  { s with
    h := iv
    work := ⟨0, 0, 0, 0, 0⟩
    wr := #v[0, 0, 0, 0, 0, 0, 0, 0, 0, 0, 0, 0, 0, 0, 0, 0]
    t := 0#7
    fsm := .idle
    ibuf := #v[0, 0, 0, 0, 0, 0, 0, 0, 0, 0, 0, 0, 0, 0, 0, 0, 0, 0, 0, 0]
    inCount := 0#5
    done := false
    err := .none }

end Sys2Proof.Machine
end

