-- ==== Sys2Proof/Machine/Commands.lean ====
section
/-! DEFINITION. The meaning of each command at its accepting edge (45_commands.md R200 to R207). -/

namespace Sys2Proof.Machine

/-- NOP (R200): no state change. -/
def execNop (s : State) : Host.Outcome State Fault Refusal := .next s

/-- WRITE_BYTE (R201). An over-long input is no error here, only at the START that follows. -/
def execWriteByte (x : Byte) (s : State) : Host.Outcome State Fault Refusal := .next (appendByte x s)

/-- CLEAR_INPUT (R202). -/
def execClearInput (s : State) : Host.Outcome State Fault Refusal := .next (clearCount s)

/-- START (R203): the length check first, then the load edge. The 80 RUN edges and the FIN edge that follow are steps of
their own. -/
def execStart (s : State) : Host.Outcome State Fault Refusal :=
  if s.inCount ≠ 20#5 then .next (raise .invalidInputLength s) else .next (loadTransform s)

/-- RESET_STATE (R206). -/
def execResetState (s : State) : Host.Outcome State Fault Refusal := .next (reloadHash s)

/-- CLEAR_STATUS (R207). -/
def execClearStatus (s : State) : Host.Outcome State Fault Refusal := .next (clearFlags s)

end Sys2Proof.Machine
end

