-- ==== Sys2Proof/Machine/Dispatch.lean ====
section
/-! DEFINITION. `execute` of 45_commands.md R190: one arm per command. -/

namespace Sys2Proof.Machine

def exec (i : Instr) (s : State) : Host.Outcome State Fault Refusal :=
  match i with
  | .nop => Sys2Proof.Machine.execNop s
  | .writeByte x => Sys2Proof.Machine.execWriteByte x s
  | .clearInput => Sys2Proof.Machine.execClearInput s
  | .start => Sys2Proof.Machine.execStart s
  | .resetState => Sys2Proof.Machine.execResetState s
  | .clearStatus => Sys2Proof.Machine.execClearStatus s

end Sys2Proof.Machine
end

