-- ==== Sys2Proof/Machine/Edge.lean ====
section
/-! DEFINITION. The edge step, the whole step relation of the core (45_commands.md R190), as a function of the input ports
and the state before the edge. -/

namespace Sys2Proof.Machine

/-- No reset and no command offered. -/
def PortIn.quiet : PortIn := ⟨false, false, 0⟩

/-- The command word `w` offered, no reset. -/
def PortIn.offer (w : CmdWord) : PortIn := ⟨false, true, w⟩

/-- `rst` asserted, no command offered. -/
def PortIn.reset : PortIn := ⟨true, false, 0⟩

/-- An accepted command word (R190): a command is executed, an illegal word raises ILLEGAL_COMMAND and has no other effect
(R208). The decoder's checks come before START's length check (R237). -/
def accept (w : CmdWord) (s : State) : Host.Outcome State Fault Refusal :=
  match decode w with
  | .ok i => exec i s
  | .error _ => .next (raise .illegalCommand s)

/-- One rising edge of `clk` with input ports `p` (R190): reset wins over everything (R237, R260); a command is accepted
only in IDLE; RUN and FIN edges take no command (R193); an idle edge writes nothing (R194). -/
def edge (p : PortIn) (s : State) : Host.Outcome State Fault Refusal :=
  if p.rst then .next (resetStep s)
  else
    match s.fsm with
    | .idle => if p.cmdValid then accept p.cmd s else .next s
    | .run => .next (runEdge s)
    | .fin => .next (finEdge s)

/-- The input ports at the next edge: the first record of the list, or a host that offers nothing when the list is used up
(log entry 2). -/
def State.sampledPorts (s : State) : PortIn := s.ports.headD .quiet

/-- The state once the next edge's ports are taken off the list: the core holds no command it did not accept (R193). -/
def State.dropPorts (s : State) : State := { s with ports := s.ports.tail }

end Sys2Proof.Machine
end

