-- ==== Sys2Proof/Machine/Step.lean ====
section
/-! DEFINITION. One step of the machine: one rising edge of `clk` (00_scope.md R12), with the ports the host drives then. -/

namespace Sys2Proof.Machine

/-- One rising edge: the ports at this edge are taken off the list and the edge step of R190 is done with them. -/
def step (s : State) : Host.Outcome State Fault Refusal := edge s.sampledPorts s.dropPorts

/-- The state with the command word `w` offered at the next edge, in place of whatever the host had there, and the sequencer
at IDLE, where a command is accepted (log entry 4). The core fetches nothing: a command is placed by offering it. -/
def State.withFetchWord (s : State) (nbits w : Nat) : State :=
  { s with fsm := .idle, ports := PortIn.offer (BitVec.ofNat 16 (w % 2 ^ nbits)) :: s.ports.tail }

end Sys2Proof.Machine
end

