-- ==== Sys2Proof/Machine/Client.lean ====
section
/-! DEFINITION. A host that obeys the valid/ready handshake (45_commands.md R193, 30_encoding.md R77): a script that drives
the ports, beside the core. The core itself does not see any of it but the ports. -/

namespace Sys2Proof.Machine

/-- What a host does next. -/
inductive HostAct where
  /-- Offer a word and keep offering it until an edge accepts it (R193). -/
  | send (w : CmdWord)
  /-- WAIT: hold until STATUS.BUSY = 0, sending nothing (R77). -/
  | wait
  /-- Drive exactly these port values for one edge, whatever the core does with them. -/
  | drive (p : PortIn)
  deriving DecidableEq, Repr

/-- The ports a script drives at the next edge of a core in state `s`, and the script left after that edge. A WAIT that is
over uses no edge. -/
def scriptPorts (s : State) : List HostAct → PortIn × List HostAct
  | [] => (.quiet, [])
  | .send w :: k => (.offer w, if s.cmdReady then k else .send w :: k)
  | .wait :: k => if s.busy then (.quiet, .wait :: k) else scriptPorts s k
  | .drive p :: k => (p, k)

/-- One edge of a core driven by a script: the script's ports are put where the step samples them. -/
def scriptedStep (k : List HostAct) (s : State) : List HostAct × Host.Outcome State Fault Refusal :=
  let d := scriptPorts s k
  (d.2, step { s with ports := [d.1] })

/-- `n` edges of a core driven by a script. -/
def runScript : Nat → List HostAct → State → Host.Outcome State Fault Refusal
  | 0, _, s => .next s
  | n + 1, k, s =>
    match scriptedStep k s with
    | (k', .next s') => runScript n k' s'
    | (_, .fault r) => .fault r
    | (_, .refused r) => .refused r

end Sys2Proof.Machine
end

