-- ==== Sys2Proof/Machine/Digest.lean ====
section
/-! DEFINITION. The transform as a function (44_digest_encoder.md R172, R175). -/

namespace Sys2Proof.Machine

/-- The hash state one transform of input `x` leaves, from the hash state `h` before it: `S + Rounds(S, Block(BE_decode(x)))`
word by word modulo 2^32 (R172, R175). -/
def transformHash (accumulate : Bool) (h : Vector Word 5) (x : Vector Byte 20) : Vector Word 5 :=
  let s := seedOf accumulate h
  addWorking s (rounds s (inputBlock x))

/-- `G(x)`, the twenty bytes one transform writes (R175). -/
def transformDigest (accumulate : Bool) (h : Vector Word 5) (x : Vector Byte 20) : Vector Byte 20 :=
  beEncode (transformHash accumulate h x)

end Sys2Proof.Machine
end

