-- ==== Sys2Proof/Machine/Transaction.lean ====
section
/-! DEFINITION. The core one accepted command at a time: the transaction-level step that 44_digest_encoder.md R175,
45_commands.md R204 and 70_reset_and_hazards.md R277 allow in place of the edges of a START. It stands beside the edge-level
machine; statements relate the two. -/

namespace Sys2Proof.Machine

/-- An accepted START through its FIN edge (R204, R175): the digest in `H`, DONE set, IBUF, IN_COUNT and ERR as before. The
hidden registers hold what the 80 rounds leave in them (R125, R150, R191). -/
def wholeTransform (s : State) : State :=
  { s with
    h := transformHash s.accumulate s.h s.ibuf
    work := rounds s.seed (inputBlock s.ibuf)
    wr := windowAfter (inputBlock s.ibuf) 80
    t := 0#7
    fsm := .idle
    done := true }

/-- A word that starts a transform in state `s`: START with exactly twenty bytes loaded (R203). -/
def startsTransform (w : CmdWord) (s : State) : Bool := w == 0x0300#16 && s.inCount == 20#5

/-- The whole effect of one accepted word (R58, R200 to R208). -/
def transact (w : CmdWord) (s : State) : State :=
  match decode w with
  | .ok .nop => s
  | .ok (.writeByte x) => appendByte x s
  | .ok .clearInput => clearCount s
  | .ok .start => if s.inCount = 20#5 then wholeTransform s else raise .invalidInputLength s
  | .ok .resetState => reloadHash s
  | .ok .clearStatus => clearFlags s
  | .error _ => raise .illegalCommand s

/-- The edges one accepted word occupies (R275, R276). -/
def edgesOf (w : CmdWord) (s : State) : Nat := if startsTransform w s then 82 else 1

/-- The edges a list of words occupies, each word sent as soon as the one before it is done. -/
def edgesOfAll : List CmdWord → State → Nat
  | [], _ => 0
  | w :: ws, s => edgesOf w s + edgesOfAll ws (transact w s)

end Sys2Proof.Machine
end

