-- ==== Sys2Proof/Machine/Transcriber.lean ====
section
/-! DEFINITION. The textual command streams of 30_encoding.md R76 and the pseudo-commands of R77, turned into what a host
does. Not part of the core. -/

namespace Sys2Proof.Machine

/-- The command of a mnemonic and its operands, for a line that spells one (R76). -/
def commandOf : Mnemonic → List Nat → Option Instr
  | .nop, [] => some .nop
  | .writeByte, [x] => if operandInRange x then some (.writeByte (BitVec.ofNat 8 x)) else none
  | .clearInput, [] => some .clearInput
  | .start, [] => some .start
  | .resetState, [] => some .resetState
  | .clearStatus, [] => some .clearStatus
  | _, _ => none

/-- The commands of LOAD20 (R77): CLEAR_INPUT, then one WRITE_BYTE for each operand. -/
def load20 (xs : List Nat) : List Instr := .clearInput :: xs.map fun x => .writeByte (BitVec.ofNat 8 x)

/-- The commands of HASH20 (R77): LOAD20, then START. -/
def hash20 (xs : List Nat) : List Instr := load20 xs ++ [.start]

/-- What a host does for a line; none for a line that does not spell a command (R76). -/
def lineActs (l : SourceLine) : Option (List HostAct) :=
  if l.wellFormed then
    match l with
    | .command m xs => (commandOf m xs).map fun i => [.send (encode i)]
    | .rawWord w => some [.send (BitVec.ofNat 16 w)]
    | .load20 xs => some ((load20 xs).map fun i => .send (encode i))
    | .hash20 xs => some ((hash20 xs).map fun i => .send (encode i))
    | .wait => some [.wait]
  else none

/-- A line without its comment (R76). -/
def withoutComment (cs : List Char) : List Char := cs.takeWhile (· ≠ ';')

/-- A blank between the words of a line. -/
def isBlank (c : Char) : Bool := c == ' ' || c == '\t' || c == '\r'

/-- The line cut at every character that `sep` accepts. -/
def pieces (sep : Char → Bool) : List Char → List (List Char)
  | [] => [[]]
  | c :: cs =>
    if sep c then [] :: pieces sep cs
    else
      match pieces sep cs with
      | p :: ps => (c :: p) :: ps
      | [] => [[c]]

/-- A piece without the blanks around it. -/
def trim (cs : List Char) : List Char := ((cs.dropWhile isBlank).reverse.dropWhile isBlank).reverse

/-- The value of a digit in base 16 (R76); both cases of the letters. -/
def hexDigit (c : Char) : Option Nat :=
  if '0' ≤ c ∧ c ≤ '9' then some (c.toNat - 48)
  else if 'a' ≤ c ∧ c ≤ 'f' then some (c.toNat - 87)
  else if 'A' ≤ c ∧ c ≤ 'F' then some (c.toNat - 55)
  else none

/-- The number of a run of digits in a base; none for a character that is no digit of it. -/
def digits (base : Nat) : Nat → List Char → Option Nat
  | n, [] => some n
  | n, c :: cs =>
    match hexDigit c with
    | some d => if d < base then digits base (n * base + d) cs else none
    | none => none

/-- An integer in decimal, or in hex after `0x` (R76); it has at least one digit. -/
def number : List Char → Option Nat
  | [] => none
  | ['0', 'x'] => none
  | '0' :: 'x' :: cs => digits 16 0 cs
  | cs => digits 10 0 cs

/-- The operand of `.word`, `0xHHHH` with exactly four hex digits (R76). -/
def fourHexDigits : List Char → Option Nat
  | ['0', 'x', a, b, c, d] => digits 16 0 [a, b, c, d]
  | _ => none

/-- The mnemonic of a command, in capitals. -/
def mnemonicOf (cs : List Char) : Option Mnemonic :=
  if cs = "NOP".toList then some .nop
  else if cs = "WRITE_BYTE".toList then some .writeByte
  else if cs = "CLEAR_INPUT".toList then some .clearInput
  else if cs = "START".toList then some .start
  else if cs = "RESET_STATE".toList then some .resetState
  else if cs = "CLEAR_STATUS".toList then some .clearStatus
  else none

/-- The operands written after a mnemonic, separated by commas; nothing after it is no operand. -/
def operandsOf (cs : List Char) : Option (List Nat) :=
  if (trim cs).isEmpty then some []
  else (pieces (· == ',') cs).mapM fun p => number (trim p)

/-- A line that is not blank, told apart (R76, R77). Mnemonics are case-insensitive. -/
def parseWords (cs : List Char) : Option SourceLine :=
  let head := cs.takeWhile fun c => !isBlank c
  let rest := cs.dropWhile fun c => !isBlank c
  let name := head.map Char.toUpper
  if head = ".word".toList then (fourHexDigits (trim rest)).map .rawWord
  else
    match operandsOf rest with
    | none => none
    | some xs =>
      if name = "LOAD20".toList then some (.load20 xs)
      else if name = "HASH20".toList then some (.hash20 xs)
      else if name = "WAIT".toList then (if xs.isEmpty then some .wait else none)
      else (mnemonicOf name).map fun m => .command m xs

/-- What a host does for one line of text; a line with nothing but blanks and a comment asks for nothing (log entry 5). -/
def transcribeLine (cs : List Char) : Option (List HostAct) :=
  let body := trim (withoutComment cs)
  if body.isEmpty then some [] else (parseWords body).bind lineActs

/-- What a host does for a whole stream, one command per line; none when some line does not spell a command (R76). -/
def transcribe (text : List Char) : Option (List HostAct) :=
  ((pieces (· == '\n') text).mapM transcribeLine).map List.flatten

end Sys2Proof.Machine
end

