-- ==== Sys2Proof/Safety.lean ====
section
/-! DEFINITION. What claims about the machine are stated in: runs of several edges, the states a run can reach, and what a
transform in flight must hold. -/

namespace Sys2Proof.Machine

/-- `n` edges, the first stop wins. -/
def runEdges : Nat → State → Host.Outcome State Fault Refusal
  | 0, s => .next s
  | n + 1, s =>
    match step s with
    | .next s' => runEdges n s'
    | .fault r => .fault r
    | .refused r => .refused r

/-- The values the spec says registers can have: t in 0..79 (R25), IN_COUNT in 0..21 (R28), ERR never 3 (R233), and what the
sequencer adds: t is 0 outside RUN (R191, R203, R261), DONE only in IDLE (R171, R203), and a transform in flight has its
twenty bytes (R203). -/
abbrev State.legal (s : State) : Prop :=
  s.t.toNat ≤ 79 ∧ s.inCount.toNat ≤ 21 ∧ s.err ≠ .allocationFailure ∧
    (s.fsm ≠ .run → s.t = 0#7) ∧ (s.done = true → s.fsm = .idle) ∧ (s.fsm ≠ .idle → s.inCount = 20#5)

/-- The schedule of the transform on the bytes that IBUF holds (R102, R120, R121). -/
def State.inputSchedule (s : State) : Nat → Word := schedule (inputBlock s.ibuf)

/-- What a transform in flight holds: in RUN at round t the working registers are those of rounds 0 to t-1 from the seed
(R146, R149) and the window is `Wr[j] = W[t+j]` (R24, R124); in FIN they are `Rounds(S, B)` (R150, R170). -/
abbrev State.onTrack (s : State) : Prop :=
  (s.fsm = .run →
    s.work = roundsUpTo s.inputSchedule (Working.ofWords s.seed) s.t.toNat ∧
      ∀ j : Fin 16, s.t.toNat + j.val ≤ 79 → s.wr[j.val] = s.inputSchedule (s.t.toNat + j.val)) ∧
  (s.fsm = .fin → s.work = rounds s.seed (inputBlock s.ibuf))

/-- Two states no output can tell apart, now or later (R37, R262): everything but the registers no later output depends on
is equal. The bytes of IBUF count only where the input counter has covered them, the datapath registers only while a
transform is in flight. -/
abbrev State.sameVisible (s₁ s₂ : State) : Prop :=
  s₁.accumulate = s₂.accumulate ∧ s₁.h = s₂.h ∧ s₁.fsm = s₂.fsm ∧ s₁.inCount = s₂.inCount ∧ s₁.done = s₂.done ∧
    s₁.err = s₂.err ∧ s₁.ports = s₂.ports ∧
    (∀ j : Fin 20, j.val < s₁.inCount.toNat → s₁.ibuf[j.val] = s₂.ibuf[j.val]) ∧
    (s₁.fsm ≠ .idle → s₁.work = s₂.work ∧ s₁.wr = s₂.wr ∧ s₁.t = s₂.t)

end Sys2Proof.Machine
end

