-- ==== Sys2Proof/Certificates/Slice0/Obligations.lean ====
section
/-! DEFINITION. The statements for the provers. Each docstring names the rules of spec/ it formalises. -/

open Sys2Proof Sys2Proof.Machine

/-! ### Encoding (30_encoding.md) -/

/-- R72: the words of the opcode map, written out, decode to their commands. -/
def Obligations.WrittenWordsDecode : Prop :=
  decode 0b0000000000000000 = .ok .nop ∧ decode 0b0000000110101011 = .ok (.writeByte 0xAB) ∧
    decode 0b0000001000000000 = .ok .clearInput ∧ decode 0b0000001100000000 = .ok .start ∧
    decode 0b0000010000000000 = .ok .resetState ∧ decode 0b0000010100000000 = .ok .clearStatus ∧
    decode 0x0600 = .error .illegalOpcode ∧ decode 0x0301 = .error .reservedOperand

/-- R72, R73, R75: decoding and encoding agree both ways, for every command with every operand and for every word. -/
def Obligations.DecodeEncodeAgree : Prop :=
  (∀ i : Instr, i.wellFormed = true → decode (encode i) = .ok i) ∧
    (∀ (w : CmdWord) (i : Instr), decode w = .ok i → encode i = w)

/-- R74: which words are illegal, of which of the two kinds, and how many: 261 of the 65536 words are legal and 65275 are
illegal; an accepted illegal word raises ILLEGAL_COMMAND. A word of the first kind is refused for its opcode whatever its
operand is (R237). -/
def Obligations.IllegalWordsExactly : Prop :=
  (∀ w : CmdWord,
    (decode w = .error .illegalOpcode ↔ 0x0600 ≤ w.toNat) ∧
    (decode w = .error .reservedOperand ↔ w.toNat < 0x0600 ∧ w.toNat / 256 ≠ 1 ∧ w.toNat % 256 ≠ 0) ∧
    ((∃ i, decode w = .ok i) ↔ w.toNat < 0x0600 ∧ (w.toNat / 256 = 1 ∨ w.toNat % 256 = 0))) ∧
  ((List.range 65536).filter fun n => (decode (BitVec.ofNat 16 n)).toOption.isSome).length = 261 ∧
  ((List.range 65536).filter fun n => (decode (BitVec.ofNat 16 n)).toOption.isNone).length = 65275 ∧
  ∀ (s : State) (w : CmdWord) (rest : List PortIn),
    s.fsm = .idle → s.ports = .offer w :: rest → (∀ i, decode w ≠ .ok i) →
      step s = .next { s with err := .illegalCommand, ports := rest }

/-- spec/opcode_table.json, R72: a word is of a row of the table exactly when it decodes to a command with the row's
mnemonic, and no word is of two rows. -/
def Obligations.OpcodeTableRowsDecode : Prop :=
  (∀ (r : OpcodeRow) (w : CmdWord), r ∈ opcodeTable →
    (r.matchesWord w = true ↔ ∃ i, decode w = .ok i ∧ i.mnemonic = r.mnemonic)) ∧
  (∀ (r₁ r₂ : OpcodeRow) (w : CmdWord), r₁ ∈ opcodeTable → r₂ ∈ opcodeTable →
    r₁.matchesWord w = true → r₂.matchesWord w = true → r₁ = r₂)

/-- R76, R77: what each line of a command stream sends, and exactly when it is refused, for a line whose words are told apart.
A WRITE_BYTE line is refused unless it has one operand, 0 to 255; a line of another mnemonic is refused when it has an operand.
The form `.word` sends its word, and only a number of more than 16 bits is refused. WAIT sends nothing. LOAD20 and HASH20 send
their expansions. Three points are the model's choice (log entry 5): that `.word` may spell a legal word, since R76 gives it for
the illegal ones; that it is refused for a number it cannot spell; and that LOAD20 and HASH20 are refused for a count other than
twenty or an operand past 255. -/
def Obligations.SourceLinesSpell : Prop :=
  (∀ xs : List Nat, lineActs (.command .writeByte xs) = none ↔ ¬ ∃ x, xs = [x] ∧ x ≤ 255) ∧
  (∀ (m : Mnemonic) (xs : List Nat), m ≠ .writeByte → (lineActs (.command m xs) = none ↔ xs ≠ [])) ∧
  (∀ w : Nat, lineActs (.rawWord w) = none ↔ 65536 ≤ w) ∧
  (∀ xs : List Nat,
    (lineActs (.load20 xs) = none ↔ xs.length ≠ 20 ∨ ∃ x ∈ xs, 255 < x) ∧
    (lineActs (.hash20 xs) = none ↔ xs.length ≠ 20 ∨ ∃ x ∈ xs, 255 < x)) ∧
  (∀ x : Nat, x ≤ 255 → lineActs (.command .writeByte [x]) = some [.send (0x01#8 ++ BitVec.ofNat 8 x)]) ∧
  lineActs (.command .nop []) = some [.send 0x0000#16] ∧
  lineActs (.command .clearInput []) = some [.send 0x0200#16] ∧
  lineActs (.command .start []) = some [.send 0x0300#16] ∧
  lineActs (.command .resetState []) = some [.send 0x0400#16] ∧
  lineActs (.command .clearStatus []) = some [.send 0x0500#16] ∧
  (∀ w : CmdWord, lineActs (.rawWord w.toNat) = some [.send w]) ∧
  lineActs .wait = some [.wait] ∧
  (∀ xs : List Nat, xs.length = 20 → (∀ x ∈ xs, x ≤ 255) →
    lineActs (.load20 xs) = some (.send 0x0200#16 :: xs.map fun x => .send (0x01#8 ++ BitVec.ofNat 8 x)) ∧
    lineActs (.hash20 xs) =
      some (.send 0x0200#16 :: (xs.map fun x => .send (0x01#8 ++ BitVec.ofNat 8 x)) ++ [.send 0x0300#16]))

/-! ### The step (45_commands.md R190 to R194) -/

/-- R190: when the sequencer is IDLE, no reset is asserted and the offered word decodes to `i`, the step is `exec` of `i` at
the state with this edge's ports taken off. -/
def Obligations.StepRunsDecodedCommand : Prop :=
  ∀ (s : State) (p : PortIn) (rest : List PortIn) (i : Instr),
    s.fsm = .idle → s.ports = p :: rest → p.rst = false → p.cmdValid = true → decode p.cmd = .ok i →
      step s = exec i { s with ports := rest }

/-- The host's placement of a word (log entry 4, the model's choice): the very next step after `withFetchWord` runs the command
the word decodes to, at the state with the sequencer in IDLE and this edge's ports gone. -/
def Obligations.PlacedWordRunsNext : Prop :=
  ∀ (s : State) (w : Nat) (i : Instr),
    decodeTableWord 16 w = some i →
      step (s.withFetchWord 16 w) = exec i { s with fsm := .idle, ports := s.ports.tail }

/-- R208, R231, R234: an accepted illegal word sets ERR to ILLEGAL_COMMAND and writes nothing else, whatever IN_COUNT is
(R237). Illegal is said of the word's number, not of the decoder. -/
def Obligations.IllegalWordSetsErrOnly : Prop :=
  ∀ (s : State) (w : CmdWord) (rest : List PortIn),
    s.fsm = .idle → s.ports = ⟨false, true, w⟩ :: rest →
    0x0600 ≤ w.toNat ∨ (w.toNat / 256 ≠ 1 ∧ w.toNat % 256 ≠ 0) →
      step s = .next { s with err := .illegalCommand, ports := rest } ∧
        ErrCode.code .illegalCommand = 2

/-- R194: with IDLE, no reset and nothing offered an edge writes nothing, for any number of edges. -/
def Obligations.IdleEdgesHold : Prop :=
  ∀ (s : State) (quiet rest : List PortIn),
    s.fsm = .idle → (∀ p ∈ quiet, p.rst = false ∧ p.cmdValid = false) → s.ports = quiet ++ rest →
      runEdges quiet.length s = .next { s with ports := rest }

/-- The model's choice (log entry 2): a used-up list of ports is a host that offers nothing and asserts no reset. -/
def Obligations.UsedUpPortsAreQuiet : Prop :=
  ∀ s : State, s.ports = [] → step s = step { s with ports := [⟨false, false, 0⟩] }

/-- R190: the step has a successor for every state and every input; it never stops. -/
def Obligations.StepIsTotal : Prop := ∀ s : State, ∃ t, step s = .next t

/-- R190, R193, R237: while a transform runs, and at a reset edge, what is on `cmd_valid` and `cmd` makes no difference. -/
def Obligations.BusyEdgeIgnoresCommand : Prop :=
  ∀ (s : State) (rst v₁ v₂ : Bool) (w₁ w₂ : CmdWord) (rest : List PortIn),
    s.fsm ≠ .idle ∨ rst = true →
      step { s with ports := ⟨rst, v₁, w₁⟩ :: rest } = step { s with ports := ⟨rst, v₂, w₂⟩ :: rest }

/-! ### Reset (70_reset_and_hazards.md) -/

/-- The reset state of each instance has the values of R261, every register of the spec among them. Two clauses are the model's
choice: `State.reset` is the state of the bodiless parameter `Config.accumulate` (log entry 1), and its list of ports is empty
(log entry 2). -/
def Obligations.ResetStateValues : Prop :=
  State.reset = State.resetOf Config.accumulate ∧
  ∀ acc : Bool,
    (State.resetOf acc).accumulate = acc ∧
    (State.resetOf acc).h = #v[0x67452301, 0xEFCDAB89, 0x98BADCFE, 0x10325476, 0xC3D2E1F0] ∧
    (State.resetOf acc).work = ⟨0, 0, 0, 0, 0⟩ ∧ (∀ j : Fin 16, (State.resetOf acc).wr[j.val] = 0) ∧
    (State.resetOf acc).t = 0#7 ∧ (State.resetOf acc).fsm = .idle ∧
    (∀ j : Fin 20, (State.resetOf acc).ibuf[j.val] = 0) ∧ (State.resetOf acc).inCount = 0#5 ∧
    (State.resetOf acc).done = false ∧ (State.resetOf acc).err = .none ∧ (State.resetOf acc).ports = []

/-- R260, R261, R264: from any state at all, in flight or before the first reset, one or more reset edges leave every state
element at its reset value and the outputs that follow, whatever is on the command port; ACCUMULATE is not changed. -/
def Obligations.ResetEdgesFromAnyState : Prop :=
  ∀ (s : State) (p : PortIn) (ps rest : List PortIn),
    (∀ q ∈ p :: ps, q.rst = true) → s.ports = p :: ps ++ rest → ∃ t : State,
      runEdges (ps.length + 1) s = .next t ∧
      t.h = #v[0x67452301, 0xEFCDAB89, 0x98BADCFE, 0x10325476, 0xC3D2E1F0] ∧ t.work = ⟨0, 0, 0, 0, 0⟩ ∧
      (∀ j : Fin 16, t.wr[j.val] = 0) ∧ t.t = 0#7 ∧ t.fsm = .idle ∧ (∀ j : Fin 20, t.ibuf[j.val] = 0) ∧
      t.inCount = 0#5 ∧ t.done = false ∧ t.err = .none ∧ t.accumulate = s.accumulate ∧ t.ports = rest ∧
      t.cmdReady = true ∧ t.status = (if s.accumulate then 0x0200#16 else 0x0000#16) ∧
      t.dout = 0x67452301EFCDAB8998BADCFE10325476C3D2E1F0

/-! ### The commands (45_commands.md R200 to R207): encoding, result and frame -/

/-- R200: NOP completes in every state and changes nothing. -/
def Obligations.NopChangesNothing : Prop :=
  ∀ s : State, exec .nop s = .next s ∧ encode .nop = 0x0000#16

/-- R201: WRITE_BYTE completes in every state. Below 20 it stores the byte at IBUF[IN_COUNT] and counts it, at 20 it drops
the byte and the count becomes 21, from 21 on nothing changes; nothing else is written. -/
def Obligations.WriteByteAppends : Prop :=
  ∀ (x : Byte) (s : State), ∃ t : State,
    exec (.writeByte x) s = .next t ∧ encode (.writeByte x) = 0x01#8 ++ x ∧
    (∀ j : Fin 20, t.ibuf[j.val] = if s.inCount.toNat < 20 ∧ j.val = s.inCount.toNat then x else s.ibuf[j.val]) ∧
    t.inCount.toNat = (if s.inCount.toNat ≤ 20 then s.inCount.toNat + 1 else s.inCount.toNat) ∧
    t.accumulate = s.accumulate ∧ t.h = s.h ∧ t.work = s.work ∧ t.wr = s.wr ∧ t.t = s.t ∧ t.fsm = s.fsm ∧
    t.done = s.done ∧ t.err = s.err ∧ t.ports = s.ports

/-- R202: CLEAR_INPUT completes in every state, sets IN_COUNT to 0 and writes nothing else; the bytes of IBUF stay. -/
def Obligations.ClearInputZeroesCount : Prop :=
  ∀ s : State, exec .clearInput s = .next { s with inCount := 0#5 } ∧ encode .clearInput = 0x0200#16

/-- R203, R104, R140: START with exactly twenty bytes loads the block and the seed, clears t and DONE and enters RUN; `H`,
IBUF, IN_COUNT and ERR are unchanged. -/
def Obligations.StartLoadsTransform : Prop :=
  ∀ s : State, s.inCount = 20#5 → ∃ t : State,
    exec .start s = .next t ∧ encode .start = 0x0300#16 ∧
    t.wr = block (beDecode s.ibuf) ∧
    t.work.a = (if s.accumulate then s.h[0] else 0x67452301) ∧
    t.work.b = (if s.accumulate then s.h[1] else 0xEFCDAB89) ∧
    t.work.c = (if s.accumulate then s.h[2] else 0x98BADCFE) ∧
    t.work.d = (if s.accumulate then s.h[3] else 0x10325476) ∧
    t.work.e = (if s.accumulate then s.h[4] else 0xC3D2E1F0) ∧
    t.t = 0#7 ∧ t.fsm = .run ∧ t.done = false ∧ t.busy = true ∧ t.cmdReady = false ∧
    t.accumulate = s.accumulate ∧ t.h = s.h ∧ t.ibuf = s.ibuf ∧ t.inCount = s.inCount ∧ t.err = s.err ∧
    t.ports = s.ports

/-- R203, R232: START with any other count sets ERR to INVALID_INPUT_LENGTH and writes nothing else. -/
def Obligations.StartRejectsWrongLength : Prop :=
  ∀ s : State, s.inCount ≠ 20#5 →
    exec .start s = .next { s with err := .invalidInputLength } ∧ ErrCode.code .invalidInputLength = 1

/-- R206: RESET_STATE completes in every state, loads `IV` into `H`, clears DONE and writes nothing else; `dout` shows `IV`. -/
def Obligations.ResetStateReloadsHash : Prop :=
  ∀ s : State, ∃ t : State,
    exec .resetState s = .next t ∧ encode .resetState = 0x0400#16 ∧
    t = { s with h := #v[0x67452301, 0xEFCDAB89, 0x98BADCFE, 0x10325476, 0xC3D2E1F0], done := false } ∧
    t.dout = 0x67452301EFCDAB8998BADCFE10325476C3D2E1F0

/-- R207: CLEAR_STATUS completes in every state, clears ERR and DONE and writes nothing else. -/
def Obligations.ClearStatusClearsFlags : Prop :=
  ∀ s : State, exec .clearStatus s = .next { s with err := .none, done := false } ∧
    encode .clearStatus = 0x0500#16 ∧ ErrCode.code .none = 0

/-! ### RUN and FIN edges (R191, R192) -/

/-- R191, R146, R123, R145: a RUN edge does the round step of round t, shifts the window and advances the sequencer; it
writes no other state. The round functions and constants are written out per phase. -/
def Obligations.RunEdgeDoesOneRound : Prop :=
  ∀ (s : State) (p : PortIn) (rest : List PortIn),
    s.fsm = .run → s.t.toNat < 80 → s.ports = p :: rest → p.rst = false → ∃ u : State, ∃ f k : Word,
      step s = .next u ∧
      (s.t.toNat < 20 → f = (s.work.b &&& s.work.c) ||| (~~~s.work.b &&& s.work.d) ∧ k = 0x5A827999) ∧
      (20 ≤ s.t.toNat → s.t.toNat < 40 → f = s.work.b ^^^ s.work.c ^^^ s.work.d ∧ k = 0x6ED9EBA1) ∧
      (40 ≤ s.t.toNat → s.t.toNat < 60 →
        f = (s.work.b &&& s.work.c) ||| (s.work.b &&& s.work.d) ||| (s.work.c &&& s.work.d) ∧ k = 0x8F1BBCDC) ∧
      (60 ≤ s.t.toNat → f = s.work.b ^^^ s.work.c ^^^ s.work.d ∧ k = 0xCA62C1D6) ∧
      u.work.a = s.work.a.rotateLeft 5 + f + s.work.e + s.wr[0] + k ∧
      u.work.b = s.work.a ∧ u.work.c = s.work.b.rotateLeft 30 ∧ u.work.d = s.work.c ∧ u.work.e = s.work.d ∧
      (∀ j : Fin 15, u.wr[j.val] = s.wr[j.val + 1]) ∧
      u.wr[15] = (s.wr[13] ^^^ s.wr[8] ^^^ s.wr[2] ^^^ s.wr[0]).rotateLeft 1 ∧
      u.t.toNat = (if s.t.toNat = 79 then 0 else s.t.toNat + 1) ∧
      u.fsm = (if s.t.toNat = 79 then .fin else .run) ∧
      u.accumulate = s.accumulate ∧ u.h = s.h ∧ u.ibuf = s.ibuf ∧ u.inCount = s.inCount ∧ u.done = s.done ∧
      u.err = s.err ∧ u.ports = rest

/-- R171, R192: a FIN edge adds the working registers into the seed, word by word modulo 2^32, sets DONE and returns to IDLE;
it writes no other state. -/
def Obligations.FinEdgeAddsIntoHash : Prop :=
  ∀ (s : State) (p : PortIn) (rest : List PortIn),
    s.fsm = .fin → s.ports = p :: rest → p.rst = false → ∃ u : State,
      step s = .next u ∧
      u.h[0].toNat = ((if s.accumulate then s.h[0].toNat else 0x67452301) + s.work.a.toNat) % 2 ^ 32 ∧
      u.h[1].toNat = ((if s.accumulate then s.h[1].toNat else 0xEFCDAB89) + s.work.b.toNat) % 2 ^ 32 ∧
      u.h[2].toNat = ((if s.accumulate then s.h[2].toNat else 0x98BADCFE) + s.work.c.toNat) % 2 ^ 32 ∧
      u.h[3].toNat = ((if s.accumulate then s.h[3].toNat else 0x10325476) + s.work.d.toNat) % 2 ^ 32 ∧
      u.h[4].toNat = ((if s.accumulate then s.h[4].toNat else 0xC3D2E1F0) + s.work.e.toNat) % 2 ^ 32 ∧
      u.done = true ∧ u.fsm = .idle ∧
      u.accumulate = s.accumulate ∧ u.work = s.work ∧ u.wr = s.wr ∧ u.t = s.t ∧ u.ibuf = s.ibuf ∧
      u.inCount = s.inCount ∧ u.err = s.err ∧ u.ports = rest

/-! ### Datapath functions (41 to 44) -/

/-- R10: `rotl(x, n)` moves bit i to bit (i + n) mod 32, for every 0 < n < 32. -/
def Obligations.RotlMovesBits : Prop :=
  ∀ (x : Word) (n i : Nat), 0 < n → n < 32 → i < 32 → (rotl x n).getLsbD ((i + n) % 32) = x.getLsbD i

/-- R100: each decoded word is the big-endian number of its four bytes. -/
def Obligations.DecodedWordIsBigEndian : Prop :=
  ∀ (x : Vector Byte 20) (i : Fin 5),
    (beDecode x)[i.val].toNat =
      x[4 * i.val].toNat * 2 ^ 24 + x[4 * i.val + 1].toNat * 2 ^ 16 + x[4 * i.val + 2].toNat * 2 ^ 8 +
        x[4 * i.val + 3].toNat

/-- R102: the sixteen words of the block. -/
def Obligations.BlockWords : Prop :=
  ∀ m : Vector Word 5,
    (∀ i : Fin 5, (block m)[i.val] = m[i.val]) ∧ (block m)[5] = 0x80000000 ∧
      (∀ i : Fin 9, (block m)[6 + i.val] = 0) ∧ (block m)[15] = 0x000000A0

/-- R120, R121: the schedule is the block, then the recurrence. -/
def Obligations.ScheduleRecurrence : Prop :=
  ∀ b : Vector Word 16,
    (∀ i : Fin 16, schedule b i.val = b[i.val]) ∧
    (∀ i : Nat, 16 ≤ i → i < 80 →
      schedule b i =
        (schedule b (i - 3) ^^^ schedule b (i - 8) ^^^ schedule b (i - 14) ^^^ schedule b (i - 16)).rotateLeft 1)

/-- R124: before the RUN edge of round t the window holds the schedule from t on. -/
def Obligations.WindowAgreesWithSchedule : Prop :=
  ∀ (b : Vector Word 16) (t : Nat) (j : Fin 16),
    t < 80 → t + j.val ≤ 79 → (windowAfter b t)[j.val] = schedule b (t + j.val)

/-- R141: the phase of round t is floor(t / 20). -/
def Obligations.PhaseIsFloor : Prop := ∀ t : Nat, t < 80 → (phase t).val = t / 20

/-- R142, R143, R144: the round functions bit by bit: F1 chooses c or d by b, F2 is parity, F3 is the majority. -/
def Obligations.RoundFunctionsBitwise : Prop :=
  ∀ (b c d : Word) (i : Nat), i < 32 →
    (f1 b c d).getLsbD i = (if b.getLsbD i then c.getLsbD i else d.getLsbD i) ∧
    (f2 b c d).getLsbD i = decide (((b.getLsbD i).toNat + (c.getLsbD i).toNat + (d.getLsbD i).toNat) % 2 = 1) ∧
    (f3 b c d).getLsbD i = decide (2 ≤ (b.getLsbD i).toNat + (c.getLsbD i).toNat + (d.getLsbD i).toNat)

/-- R148: the round's sum is the sum of five naturals modulo 2^32. -/
def Obligations.RoundSumIsModular : Prop :=
  ∀ (p : Fin 4) (w : Word) (v : Working),
    (roundTemp p w v).toNat =
      ((rotl v.a 5).toNat + (roundFunction p v.b v.c v.d).toNat + v.e.toNat + w.toNat + (roundConstant p).toNat) % 2 ^ 32

/-- R173: the encoder is the inverse of the decoder, both ways. -/
def Obligations.EncoderInvertsDecoder : Prop :=
  (∀ h : Vector Word 5, beDecode (beEncode h) = h) ∧ (∀ x : Vector Byte 20, beEncode (beDecode x) = x)

/-- R35: `dout` is the five words of `H`, `H[0]` most significant, its byte j counted from the most significant is byte j of
the encoding (R173), and after reset it is the encoding of `IV`. -/
def Obligations.DoutIsEncodedHash : Prop :=
  (∀ s : State,
    s.dout.toNat = s.h[0].toNat * 2 ^ 128 + s.h[1].toNat * 2 ^ 96 + s.h[2].toNat * 2 ^ 64 + s.h[3].toNat * 2 ^ 32 +
      s.h[4].toNat ∧
    ∀ j : Fin 20, s.dout.extractLsb' (152 - 8 * j.val) 8 = (beEncode s.h)[j.val]) ∧
  ∀ acc : Bool, (State.resetOf acc).dout = 0x67452301EFCDAB8998BADCFE10325476C3D2E1F0

/-- R32, R33: every field of STATUS, and STATUS after reset. -/
def Obligations.StatusFields : Prop :=
  (∀ s : State,
    s.status.getLsbD 0 = decide (s.fsm ≠ .idle) ∧ s.status.getLsbD 1 = s.done ∧
    s.status.extractLsb' 2 2 = s.err.code ∧ s.status.extractLsb' 4 5 = s.inCount ∧
    s.status.getLsbD 9 = s.accumulate ∧ s.status.extractLsb' 10 6 = 0) ∧
  (State.resetOf false).status = 0x0000#16 ∧ (State.resetOf true).status = 0x0200#16

/-! ### Whole-machine rules, from every state -/

/-- R7, R261: no step changes ACCUMULATE. -/
def Obligations.AccumulateNeverChanges : Prop :=
  ∀ s t : State, step s = .next t → t.accumulate = s.accumulate

/-- R20, R56: `H` changes only at a reset edge, a FIN edge, or an edge that accepts RESET_STATE; and so does `dout`. -/
def Obligations.HashChangesOnlyAt : Prop :=
  ∀ s t : State, step s = .next t → t.h ≠ s.h ∨ t.dout ≠ s.dout →
    s.sampledPorts.rst = true ∨ s.fsm = .fin ∨
      (s.fsm = .idle ∧ s.sampledPorts.cmdValid = true ∧ s.sampledPorts.cmd = 0x0400#16)

/-- R30: ERR changes only when a command is rejected, when CLEAR_STATUS is accepted, or at a reset edge. -/
def Obligations.ErrChangesOnlyAt : Prop :=
  ∀ s t : State, step s = .next t → t.err ≠ s.err →
    s.sampledPorts.rst = true ∨
      (s.fsm = .idle ∧ s.sampledPorts.cmdValid = true ∧
        (s.sampledPorts.cmd = 0x0500#16 ∨ (∃ e, decode s.sampledPorts.cmd = .error e) ∨
          (s.sampledPorts.cmd = 0x0300#16 ∧ s.inCount ≠ 20#5)))

/-- R30, R235: ERR blocks nothing: a step from a state with another error code does the same to everything but ERR. -/
def Obligations.ErrBlocksNothing : Prop :=
  ∀ (s t : State) (e : ErrCode), step s = .next t →
    ∃ u : State, step { s with err := e } = .next u ∧ { u with err := t.err } = t

/-- R29: DONE becomes 1 only at a FIN edge; it becomes 0 only when a START is accepted with twenty bytes, at RESET_STATE, at
CLEAR_STATUS or at a reset edge. -/
def Obligations.DoneChangesOnlyAt : Prop :=
  ∀ s t : State, step s = .next t →
    (s.done = false → t.done = true → s.sampledPorts.rst = false ∧ s.fsm = .fin) ∧
    (s.done = true → t.done = false →
      s.sampledPorts.rst = true ∨
        (s.fsm = .idle ∧ s.sampledPorts.cmdValid = true ∧
          ((s.sampledPorts.cmd = 0x0300#16 ∧ s.inCount = 20#5) ∨ s.sampledPorts.cmd = 0x0400#16 ∨
            s.sampledPorts.cmd = 0x0500#16)))

/-- R27: a byte of IBUF changes only at a reset edge or when a WRITE_BYTE with its place next and room left is accepted, and
then it takes the operand. -/
def Obligations.InputByteChangesOnlyAt : Prop :=
  ∀ (s t : State) (j : Fin 20), step s = .next t → t.ibuf[j.val] ≠ s.ibuf[j.val] →
    s.sampledPorts.rst = true ∨
      (s.fsm = .idle ∧ s.sampledPorts.cmdValid = true ∧ s.inCount.toNat = j.val ∧
        s.sampledPorts.cmd = 0x01#8 ++ t.ibuf[j.val])

/-- R26, R190, R191, R203: how FSM and t move without a reset: IDLE to RUN with t = 0 only at an accepted START with twenty
bytes, else IDLE stays and t holds; RUN through t = 0..79 to FIN, FIN to IDLE. For t in 80..127, which no run reaches (R25),
the RUN clause is the model's (log entry 3). -/
def Obligations.SequencerMoves : Prop :=
  ∀ s t : State, step s = .next t → s.sampledPorts.rst = false →
    (s.fsm = .idle →
      t.fsm = (if s.sampledPorts.cmdValid = true ∧ s.sampledPorts.cmd = 0x0300#16 ∧ s.inCount = 20#5 then .run else .idle) ∧
      t.t = (if s.sampledPorts.cmdValid = true ∧ s.sampledPorts.cmd = 0x0300#16 ∧ s.inCount = 20#5 then 0#7 else s.t)) ∧
    (s.fsm = .run → t.fsm = (if s.t = 79#7 then .fin else .run) ∧ t.t = (if s.t = 79#7 then 0#7 else s.t + 1#7)) ∧
    (s.fsm = .fin → t.fsm = .idle ∧ t.t = s.t)

/-- R25, R28, R233: a step keeps every register within the values the spec gives it; ERR = 3 never appears. -/
def Obligations.LegalStatesKept : Prop :=
  ∀ s t : State, s.legal → step s = .next t → t.legal

/-- The reset state of either instance is within those values, and so is `State.reset`. -/
def Obligations.ResetStateLegal : Prop := (∀ acc : Bool, (State.resetOf acc).legal) ∧ State.reset.legal

/-- R24, R124, R150, R170: a step keeps a transform in flight on the track of `Rounds(S, B)`: at round t the working registers
are those of the first t rounds and the window is the schedule from t on. -/
def Obligations.TransformStaysOnTrack : Prop :=
  ∀ s t : State, s.legal → s.onTrack → step s = .next t → t.onTrack

/-- R263: no transform is in flight at reset, so the reset state of either instance is on track, and so is `State.reset`. -/
def Obligations.ResetStateOnTrack : Prop :=
  (∀ acc : Bool, (State.resetOf acc).fsm = .idle ∧ (State.resetOf acc).onTrack) ∧
    State.reset.fsm = .idle ∧ State.reset.onTrack

/-- R37, R262: registers no output shows make no difference, now or later: two states equal but for them step to two such
states, with the same outputs. -/
def Obligations.HiddenStateUnobservable : Prop :=
  ∀ s₁ s₂ : State, s₁.sameVisible s₂ →
    s₁.status = s₂.status ∧ s₁.dout = s₂.dout ∧ s₁.cmdReady = s₂.cmdReady ∧
    ∃ t₁ t₂ : State, step s₁ = .next t₁ ∧ step s₂ = .next t₂ ∧ t₁.sameVisible t₂

/-! ### Runs of many edges -/

/-- R204, R175, R275: an accepted START, then 81 edges with anything but a reset on the ports, ends in the transform's whole
effect. -/
def Obligations.TransformRefinesFunction : Prop :=
  ∀ (s : State) (held rest : List PortIn),
    s.fsm = .idle → s.inCount = 20#5 → held.length = 81 → (∀ p ∈ held, p.rst = false) →
    s.ports = .offer 0x0300#16 :: held ++ rest → ∃ t : State,
      runEdges 82 s = .next t ∧
      t.h = addWorking (seedOf s.accumulate s.h) (rounds (seedOf s.accumulate s.h) (block (beDecode s.ibuf))) ∧
      (∀ j : Fin 20, t.dout.extractLsb' (152 - 8 * j.val) 8 = (transformDigest s.accumulate s.h s.ibuf)[j.val]) ∧
      t.done = true ∧ t.fsm = .idle ∧ t.ibuf = s.ibuf ∧ t.inCount = s.inCount ∧ t.err = s.err ∧
      t.accumulate = s.accumulate ∧ t.ports = rest

/-- R275 (and R272, R174 for `dout`): for the 81 edges after the accepting one the core is busy and `dout` holds the value from
before the START; RUN edges do rounds 0 to 79; after the 82nd edge, counting the accepting one, the core is ready, DONE is 1
and `dout` is the encoding of the digest. -/
def Obligations.StartOccupiesEightyTwoEdges : Prop :=
  ∀ (s : State) (held rest : List PortIn),
    s.fsm = .idle → s.inCount = 20#5 → held.length = 81 → (∀ p ∈ held, p.rst = false) →
    s.ports = .offer 0x0300#16 :: held ++ rest →
    (∀ k : Nat, 1 ≤ k → k ≤ 81 → ∃ u : State,
      runEdges k s = .next u ∧ u.busy = true ∧ u.cmdReady = false ∧ u.done = false ∧ u.dout = s.dout ∧
      u.fsm = (if k = 81 then .fin else .run) ∧ u.t.toNat = (k - 1) % 80) ∧
    ∃ t : State, runEdges 82 s = .next t ∧ t.busy = false ∧ t.cmdReady = true ∧ t.done = true ∧
      t.h = transformHash s.accumulate s.h s.ibuf ∧
      ∀ j : Fin 20, t.dout.extractLsb' (152 - 8 * j.val) 8 = (transformDigest s.accumulate s.h s.ibuf)[j.val]

/-- R193, R275: a command held on the port during a transform is taken at the 83rd edge, and only there. The state before it is
the whole of `wholeTransform s`; what that says of `a..e`, `Wr` and `t` is the model's deduction from the edges (log entry 7),
since R204 says only that no output depends on them (93_implementation_defined.md U6). -/
def Obligations.HeldCommandTakenAfterTransform : Prop :=
  ∀ (s : State) (i : Instr) (rest : List PortIn),
    s.fsm = .idle → s.inCount = 20#5 →
    s.ports = .offer 0x0300#16 :: List.replicate 82 (.offer (encode i)) ++ rest →
      runEdges 82 s = .next { wholeTransform s with ports := .offer (encode i) :: rest } ∧
      runEdges 83 s = exec i { wholeTransform s with ports := rest }

/-- R37, R205: in pure mode the digest of a transform depends on the twenty input bytes alone: two cores that agree on nothing
but the input, whatever their histories, end with the same digest. -/
def Obligations.PureModeForgetsHistory : Prop :=
  ∀ (s₁ s₂ : State) (held₁ rest₁ held₂ rest₂ : List PortIn),
    s₁.accumulate = false → s₂.accumulate = false → s₁.fsm = .idle → s₂.fsm = .idle →
    s₁.inCount = 20#5 → s₂.inCount = 20#5 → s₁.ibuf = s₂.ibuf →
    held₁.length = 81 → held₂.length = 81 → (∀ p ∈ held₁ ++ held₂, p.rst = false) →
    s₁.ports = .offer 0x0300#16 :: held₁ ++ rest₁ → s₂.ports = .offer 0x0300#16 :: held₂ ++ rest₂ →
      ∃ t₁ t₂ : State, runEdges 82 s₁ = .next t₁ ∧ runEdges 82 s₂ = .next t₂ ∧ t₁.dout = t₂.dout

/-- R28, R201, R202: after CLEAR_INPUT and n WRITE_BYTEs, IN_COUNT is n, or 21 for more than twenty, and the first twenty of
the bytes stand in IBUF in order; nothing else has changed. -/
def Obligations.BytesAreCountedAndStored : Prop :=
  ∀ (s : State) (xs : List Byte) (rest : List PortIn),
    s.fsm = .idle → s.ports = .offer 0x0200#16 :: (xs.map fun x => .offer (0x01#8 ++ x)) ++ rest → ∃ t : State,
      runEdges (xs.length + 1) s = .next t ∧ t.inCount.toNat = min xs.length 21 ∧
      (∀ (j : Fin 20) (x : Byte), xs[j.val]? = some x → t.ibuf[j.val] = x) ∧
      (∀ j : Fin 20, xs.length ≤ j.val → t.ibuf[j.val] = s.ibuf[j.val]) ∧
      t.accumulate = s.accumulate ∧ t.h = s.h ∧ t.work = s.work ∧ t.wr = s.wr ∧ t.t = s.t ∧ t.fsm = .idle ∧
      t.done = s.done ∧ t.err = s.err ∧ t.ports = rest

/-- R232: an input of any length but twenty is rejected by the START that follows it, and never hashed: ERR is
INVALID_INPUT_LENGTH, `H` and DONE are as before, and the core stays IDLE. -/
def Obligations.WrongLengthNeverHashed : Prop :=
  ∀ (s : State) (xs : List Byte) (rest : List PortIn),
    s.fsm = .idle → xs.length ≠ 20 →
    s.ports = .offer 0x0200#16 :: (xs.map fun x => .offer (0x01#8 ++ x)) ++ .offer 0x0300#16 :: rest → ∃ t : State,
      runEdges (xs.length + 2) s = .next t ∧ t.err = .invalidInputLength ∧ t.inCount.toNat = min xs.length 21 ∧
      t.h = s.h ∧ t.done = s.done ∧ t.fsm = .idle ∧ t.ports = rest

/-- R58, R193, R277: the model's script of a host (log entry 6), which obeys the handshake and offers the words `ws` back to
back, gets what running them one at a time gives, at exactly the edges R275 and R276 count. The equality is of whole states;
what it says of `a..e`, `Wr` and `t` after a transform is the model's deduction from the edges (log entry 7). -/
def Obligations.CommandsRunOneAtATime : Prop :=
  ∀ (ws : List CmdWord) (s : State), s.fsm = .idle → s.ports = [] →
    runScript (edgesOfAll ws s) (ws.map .send) s = .next (ws.foldl (fun u w => transact w u) s)

/-- R172, R276: hashing the inputs `xs` one after another with HASH20, 103 edges each, leaves in `H` the chain of R172: in
accumulator mode each transform starts from the `H` before it, in pure mode the last input alone decides. The host is the
model's script, which offers the words back to back (log entry 6). -/
def Obligations.HashChain : Prop :=
  ∀ (xs : List (Vector Byte 20)) (s : State), s.fsm = .idle → s.ports = [] → ∃ t : State,
    runScript (103 * xs.length) (xs.flatMap fun x => (hash20 (x.toList.map BitVec.toNat)).map fun i => .send (encode i)) s =
      .next t ∧
    t.h = xs.foldl (fun h x => addWorking (seedOf s.accumulate h) (rounds (seedOf s.accumulate h) (inputBlock x))) s.h ∧
    (xs ≠ [] → t.done = true ∧ t.inCount = 20#5) ∧ t.fsm = .idle ∧ t.err = s.err ∧ t.accumulate = s.accumulate

/-- R205, R206: a START after RESET_STATE gives the digest from the standard constants in either mode, and two STARTs with none
between them give, in accumulator mode, the second from the first. The host is the model's script (log entry 6). -/
def Obligations.RepeatedStarts : Prop :=
  ∀ s : State, s.fsm = .idle → s.inCount = 20#5 → s.ports = [] →
    (∃ t : State, runScript 83 [.send 0x0400#16, .send 0x0300#16] s = .next t ∧
      t.h = addWorking iv (rounds iv (inputBlock s.ibuf))) ∧
    (∃ t : State, runScript 164 [.send 0x0300#16, .send 0x0300#16] s = .next t ∧
      t.h = transformHash s.accumulate (transformHash s.accumulate s.h s.ibuf) s.ibuf ∧
      (s.accumulate = false → t.h = addWorking iv (rounds iv (inputBlock s.ibuf))))
end

