-- ==== Sys2Proof/Laws/Decode.lean ====
section
/-! SUPPORT. The decoder in terms of the two fields of a word. -/

namespace Sys2Proof

/-- A word is its two fields (R70). -/
theorem word_eq_fields (w : CmdWord) : w = opField w ++ argField w := by
  apply BitVec.eq_of_getLsbD_eq
  intro i hi
  simp only [opField, argField, BitVec.getLsbD_append, BitVec.getLsbD_extractLsb']
  by_cases h : i < 8
  · simp [h]
  · have h₁ : i - 8 < 8 := by omega
    have h₂ : 8 + (i - 8) = i := by omega
    simp [h, h₁, h₂]

@[simp] theorem opField_append (o a : BitVec 8) : opField (o ++ a) = o := by
  apply BitVec.eq_of_getLsbD_eq
  intro i hi
  simp only [opField, BitVec.getLsbD_append, BitVec.getLsbD_extractLsb']
  simp [hi]

@[simp] theorem argField_append (o a : BitVec 8) : argField (o ++ a) = a := by
  apply BitVec.eq_of_getLsbD_eq
  intro i hi
  simp only [argField, BitVec.getLsbD_append, BitVec.getLsbD_extractLsb']
  simp [hi]

/-- The word of WRITE_BYTE (R201). -/
theorem encode_writeByte (x : Byte) : encode (.writeByte x) = 0x01#8 ++ x := rfl

/-- The opcode as a number (R70). -/
theorem opField_toNat (w : CmdWord) : (opField w).toNat = w.toNat / 256 := by
  have := w.isLt
  simp only [opField, BitVec.extractLsb'_toNat, Nat.shiftRight_eq_div_pow]
  omega

/-- The operand byte as a number (R70). -/
theorem argField_toNat (w : CmdWord) : (argField w).toNat = w.toNat % 256 := by
  simp [argField, BitVec.extractLsb'_toNat]

end Sys2Proof
end

