-- ==== Sys2Proof/Laws/State.lean ====
section
/-! SUPPORT. What each operation leaves in each field of State, one lemma per field per operation, true by rfl, so that no
later proof unfolds a record update. -/

namespace Sys2Proof.Machine

/-! ### raise -/

@[simp] theorem raise_accumulate (e : ErrCode) (s : State) : (raise e s).accumulate = s.accumulate := rfl
@[simp] theorem raise_h (e : ErrCode) (s : State) : (raise e s).h = s.h := rfl
@[simp] theorem raise_work (e : ErrCode) (s : State) : (raise e s).work = s.work := rfl
@[simp] theorem raise_wr (e : ErrCode) (s : State) : (raise e s).wr = s.wr := rfl
@[simp] theorem raise_t (e : ErrCode) (s : State) : (raise e s).t = s.t := rfl
@[simp] theorem raise_fsm (e : ErrCode) (s : State) : (raise e s).fsm = s.fsm := rfl
@[simp] theorem raise_ibuf (e : ErrCode) (s : State) : (raise e s).ibuf = s.ibuf := rfl
@[simp] theorem raise_inCount (e : ErrCode) (s : State) : (raise e s).inCount = s.inCount := rfl
@[simp] theorem raise_done (e : ErrCode) (s : State) : (raise e s).done = s.done := rfl
@[simp] theorem raise_err (e : ErrCode) (s : State) : (raise e s).err = e := rfl
@[simp] theorem raise_ports (e : ErrCode) (s : State) : (raise e s).ports = s.ports := rfl

/-! ### clearFlags -/

@[simp] theorem clearFlags_accumulate (s : State) : (clearFlags s).accumulate = s.accumulate := rfl
@[simp] theorem clearFlags_h (s : State) : (clearFlags s).h = s.h := rfl
@[simp] theorem clearFlags_work (s : State) : (clearFlags s).work = s.work := rfl
@[simp] theorem clearFlags_wr (s : State) : (clearFlags s).wr = s.wr := rfl
@[simp] theorem clearFlags_t (s : State) : (clearFlags s).t = s.t := rfl
@[simp] theorem clearFlags_fsm (s : State) : (clearFlags s).fsm = s.fsm := rfl
@[simp] theorem clearFlags_ibuf (s : State) : (clearFlags s).ibuf = s.ibuf := rfl
@[simp] theorem clearFlags_inCount (s : State) : (clearFlags s).inCount = s.inCount := rfl
@[simp] theorem clearFlags_done (s : State) : (clearFlags s).done = false := rfl
@[simp] theorem clearFlags_err (s : State) : (clearFlags s).err = .none := rfl
@[simp] theorem clearFlags_ports (s : State) : (clearFlags s).ports = s.ports := rfl

/-! ### reloadHash -/

@[simp] theorem reloadHash_accumulate (s : State) : (reloadHash s).accumulate = s.accumulate := rfl
@[simp] theorem reloadHash_h (s : State) : (reloadHash s).h = iv := rfl
@[simp] theorem reloadHash_work (s : State) : (reloadHash s).work = s.work := rfl
@[simp] theorem reloadHash_wr (s : State) : (reloadHash s).wr = s.wr := rfl
@[simp] theorem reloadHash_t (s : State) : (reloadHash s).t = s.t := rfl
@[simp] theorem reloadHash_fsm (s : State) : (reloadHash s).fsm = s.fsm := rfl
@[simp] theorem reloadHash_ibuf (s : State) : (reloadHash s).ibuf = s.ibuf := rfl
@[simp] theorem reloadHash_inCount (s : State) : (reloadHash s).inCount = s.inCount := rfl
@[simp] theorem reloadHash_done (s : State) : (reloadHash s).done = false := rfl
@[simp] theorem reloadHash_err (s : State) : (reloadHash s).err = s.err := rfl
@[simp] theorem reloadHash_ports (s : State) : (reloadHash s).ports = s.ports := rfl

/-! ### clearCount -/

@[simp] theorem clearCount_accumulate (s : State) : (clearCount s).accumulate = s.accumulate := rfl
@[simp] theorem clearCount_h (s : State) : (clearCount s).h = s.h := rfl
@[simp] theorem clearCount_work (s : State) : (clearCount s).work = s.work := rfl
@[simp] theorem clearCount_wr (s : State) : (clearCount s).wr = s.wr := rfl
@[simp] theorem clearCount_t (s : State) : (clearCount s).t = s.t := rfl
@[simp] theorem clearCount_fsm (s : State) : (clearCount s).fsm = s.fsm := rfl
@[simp] theorem clearCount_ibuf (s : State) : (clearCount s).ibuf = s.ibuf := rfl
@[simp] theorem clearCount_inCount (s : State) : (clearCount s).inCount = 0#5 := rfl
@[simp] theorem clearCount_done (s : State) : (clearCount s).done = s.done := rfl
@[simp] theorem clearCount_err (s : State) : (clearCount s).err = s.err := rfl
@[simp] theorem clearCount_ports (s : State) : (clearCount s).ports = s.ports := rfl

/-! ### loadTransform -/

@[simp] theorem loadTransform_accumulate (s : State) : (loadTransform s).accumulate = s.accumulate := rfl
@[simp] theorem loadTransform_h (s : State) : (loadTransform s).h = s.h := rfl
@[simp] theorem loadTransform_work (s : State) : (loadTransform s).work = Working.ofWords s.seed := rfl
@[simp] theorem loadTransform_wr (s : State) : (loadTransform s).wr = inputBlock s.ibuf := rfl
@[simp] theorem loadTransform_t (s : State) : (loadTransform s).t = 0#7 := rfl
@[simp] theorem loadTransform_fsm (s : State) : (loadTransform s).fsm = .run := rfl
@[simp] theorem loadTransform_ibuf (s : State) : (loadTransform s).ibuf = s.ibuf := rfl
@[simp] theorem loadTransform_inCount (s : State) : (loadTransform s).inCount = s.inCount := rfl
@[simp] theorem loadTransform_done (s : State) : (loadTransform s).done = false := rfl
@[simp] theorem loadTransform_err (s : State) : (loadTransform s).err = s.err := rfl
@[simp] theorem loadTransform_ports (s : State) : (loadTransform s).ports = s.ports := rfl

/-! ### runEdge -/

@[simp] theorem runEdge_accumulate (s : State) : (runEdge s).accumulate = s.accumulate := rfl
@[simp] theorem runEdge_h (s : State) : (runEdge s).h = s.h := rfl
@[simp] theorem runEdge_work (s : State) : (runEdge s).work = roundStep (phase s.t.toNat) s.wr[0] s.work := rfl
@[simp] theorem runEdge_wr (s : State) : (runEdge s).wr = windowShift s.wr := rfl
@[simp] theorem runEdge_t (s : State) : (runEdge s).t = nextRound s.t := rfl
@[simp] theorem runEdge_fsm (s : State) : (runEdge s).fsm = nextFsm s.t := rfl
@[simp] theorem runEdge_ibuf (s : State) : (runEdge s).ibuf = s.ibuf := rfl
@[simp] theorem runEdge_inCount (s : State) : (runEdge s).inCount = s.inCount := rfl
@[simp] theorem runEdge_done (s : State) : (runEdge s).done = s.done := rfl
@[simp] theorem runEdge_err (s : State) : (runEdge s).err = s.err := rfl
@[simp] theorem runEdge_ports (s : State) : (runEdge s).ports = s.ports := rfl

/-! ### finEdge -/

@[simp] theorem finEdge_accumulate (s : State) : (finEdge s).accumulate = s.accumulate := rfl
@[simp] theorem finEdge_h (s : State) : (finEdge s).h = addWorking s.seed s.work := rfl
@[simp] theorem finEdge_work (s : State) : (finEdge s).work = s.work := rfl
@[simp] theorem finEdge_wr (s : State) : (finEdge s).wr = s.wr := rfl
@[simp] theorem finEdge_t (s : State) : (finEdge s).t = s.t := rfl
@[simp] theorem finEdge_fsm (s : State) : (finEdge s).fsm = .idle := rfl
@[simp] theorem finEdge_ibuf (s : State) : (finEdge s).ibuf = s.ibuf := rfl
@[simp] theorem finEdge_inCount (s : State) : (finEdge s).inCount = s.inCount := rfl
@[simp] theorem finEdge_done (s : State) : (finEdge s).done = true := rfl
@[simp] theorem finEdge_err (s : State) : (finEdge s).err = s.err := rfl
@[simp] theorem finEdge_ports (s : State) : (finEdge s).ports = s.ports := rfl

/-! ### resetStep -/

@[simp] theorem resetStep_accumulate (s : State) : (resetStep s).accumulate = s.accumulate := rfl
@[simp] theorem resetStep_h (s : State) : (resetStep s).h = iv := rfl
@[simp] theorem resetStep_work (s : State) : (resetStep s).work = ⟨0, 0, 0, 0, 0⟩ := rfl
@[simp] theorem resetStep_wr (s : State) : (resetStep s).wr = #v[0, 0, 0, 0, 0, 0, 0, 0, 0, 0, 0, 0, 0, 0, 0, 0] := rfl
@[simp] theorem resetStep_t (s : State) : (resetStep s).t = 0#7 := rfl
@[simp] theorem resetStep_fsm (s : State) : (resetStep s).fsm = .idle := rfl
@[simp] theorem resetStep_ibuf (s : State) : (resetStep s).ibuf = #v[0, 0, 0, 0, 0, 0, 0, 0, 0, 0, 0, 0, 0, 0, 0, 0, 0, 0, 0, 0] := rfl
@[simp] theorem resetStep_inCount (s : State) : (resetStep s).inCount = 0#5 := rfl
@[simp] theorem resetStep_done (s : State) : (resetStep s).done = false := rfl
@[simp] theorem resetStep_err (s : State) : (resetStep s).err = .none := rfl
@[simp] theorem resetStep_ports (s : State) : (resetStep s).ports = s.ports := rfl

/-! ### dropPorts -/

@[simp] theorem dropPorts_accumulate (s : State) : (s.dropPorts).accumulate = s.accumulate := rfl
@[simp] theorem dropPorts_h (s : State) : (s.dropPorts).h = s.h := rfl
@[simp] theorem dropPorts_work (s : State) : (s.dropPorts).work = s.work := rfl
@[simp] theorem dropPorts_wr (s : State) : (s.dropPorts).wr = s.wr := rfl
@[simp] theorem dropPorts_t (s : State) : (s.dropPorts).t = s.t := rfl
@[simp] theorem dropPorts_fsm (s : State) : (s.dropPorts).fsm = s.fsm := rfl
@[simp] theorem dropPorts_ibuf (s : State) : (s.dropPorts).ibuf = s.ibuf := rfl
@[simp] theorem dropPorts_inCount (s : State) : (s.dropPorts).inCount = s.inCount := rfl
@[simp] theorem dropPorts_done (s : State) : (s.dropPorts).done = s.done := rfl
@[simp] theorem dropPorts_err (s : State) : (s.dropPorts).err = s.err := rfl
@[simp] theorem dropPorts_ports (s : State) : (s.dropPorts).ports = s.ports.tail := rfl

/-! ### appendByte -/

@[simp] theorem appendByte_accumulate (x : Byte) (s : State) : (appendByte x s).accumulate = s.accumulate := rfl
@[simp] theorem appendByte_h (x : Byte) (s : State) : (appendByte x s).h = s.h := rfl
@[simp] theorem appendByte_work (x : Byte) (s : State) : (appendByte x s).work = s.work := rfl
@[simp] theorem appendByte_wr (x : Byte) (s : State) : (appendByte x s).wr = s.wr := rfl
@[simp] theorem appendByte_t (x : Byte) (s : State) : (appendByte x s).t = s.t := rfl
@[simp] theorem appendByte_fsm (x : Byte) (s : State) : (appendByte x s).fsm = s.fsm := rfl
@[simp] theorem appendByte_ibuf (x : Byte) (s : State) : (appendByte x s).ibuf = storeByte s.ibuf s.inCount x := rfl
@[simp] theorem appendByte_inCount (x : Byte) (s : State) : (appendByte x s).inCount = nextCount s.inCount := rfl
@[simp] theorem appendByte_done (x : Byte) (s : State) : (appendByte x s).done = s.done := rfl
@[simp] theorem appendByte_err (x : Byte) (s : State) : (appendByte x s).err = s.err := rfl
@[simp] theorem appendByte_ports (x : Byte) (s : State) : (appendByte x s).ports = s.ports := rfl

/-! ### Outputs and the seed see only their own fields -/

theorem seed_congr {s t : State} (ha : t.accumulate = s.accumulate) (hh : t.h = s.h) : t.seed = s.seed := by
  simp [State.seed, ha, hh]

theorem dout_congr {s t : State} (hh : t.h = s.h) : t.dout = s.dout := by simp [State.dout, hh]

theorem status_congr {s t : State} (ha : t.accumulate = s.accumulate) (hc : t.inCount = s.inCount) (he : t.err = s.err)
    (hd : t.done = s.done) (hf : t.fsm = s.fsm) : t.status = s.status := by
  simp [State.status, State.busy, ha, hc, he, hd, hf]

@[simp] theorem cmdReady_eq_not_busy (s : State) : s.cmdReady = !s.busy := by
  cases h : s.fsm <;> simp [State.cmdReady, State.busy, h]

end Sys2Proof.Machine
end

