-- ==== Sys2Proof/Laws/Ops.lean ====
section
/-! SUPPORT. What the shared operations do, said once: appending a byte, the equality of the reset step with the reset state,
the word operators. -/

namespace Sys2Proof.Machine

/-- R201, R28: the input counter after a byte, over all its values. -/
theorem nextCount_toNat (c : BitVec 5) :
    (nextCount c).toNat = if c.toNat ≤ 20 then c.toNat + 1 else c.toNat := by
  unfold nextCount
  split
  · rw [if_pos (by omega)]
    change (c.toNat + 1) % 2 ^ 5 = _
    omega
  · split
    · next h => simp [h]
    · next h =>
      have : c.toNat ≠ 20 := fun e => h (BitVec.eq_of_toNat_eq e)
      rw [if_neg (by omega)]

/-- R201: each byte of the input buffer after a byte. -/
theorem storeByte_get (ibuf : Vector Byte 20) (c : BitVec 5) (x : Byte) (j : Nat) (hj : j < 20) :
    (storeByte ibuf c x)[j] = if c.toNat < 20 ∧ j = c.toNat then x else ibuf[j] := by
  unfold storeByte
  split
  · by_cases e : c.toNat = j
    · simp [e, hj]
    · simp [e, Ne.symm e]
  · next h => rw [if_neg (fun both : _ ∧ _ => h both.1)]

/-- R191: the round counter counts to 79 and then starts again at 0. -/
theorem nextRound_toNat {t : BitVec 7} (h : t.toNat ≤ 79) :
    (nextRound t).toNat = if t.toNat = 79 then 0 else t.toNat + 1 := by
  unfold nextRound
  split
  · next h => simp [h]
  · next hne =>
    have : t.toNat ≠ 79 := fun e => hne (BitVec.eq_of_toNat_eq e)
    rw [if_neg this]
    change (t.toNat + 1) % 2 ^ 7 = _
    omega

/-- R191: the round after which the sequencer leaves RUN is 79. -/
theorem nextFsm_eq (t : BitVec 7) : nextFsm t = if t.toNat = 79 then .fin else .run := by
  unfold nextFsm
  by_cases h : t = 79#7
  · simp [h]
  · have : t.toNat ≠ 79 := fun e => h (BitVec.eq_of_toNat_eq e)
    rw [if_neg h, if_neg this]

@[simp] theorem nextFsm_ne_idle (t : BitVec 7) : nextFsm t ≠ .idle := by
  unfold nextFsm; split <;> simp

/-- R261: the reset step gives the reset state of the instance, and leaves the ports to the host. -/
theorem resetStep_eq (s : State) : resetStep s = { State.resetOf s.accumulate with ports := s.ports } := rfl

/-- R10: the shift form of `rotl` is the rotation. -/
theorem rotl_eq_rotateLeft (x : Word) (n : Nat) (h : n < 32) : rotl x n = x.rotateLeft n := by
  simp only [rotl, BitVec.rotateLeft, BitVec.rotateLeftAux, Nat.mod_eq_of_lt h]

end Sys2Proof.Machine
end

