-- ==== Sys2Proof/Laws/PerInstr.lean ====
section
/-! SUPPORT. Facts said of each command as a word: the family `TableRow`. -/

namespace Sys2Proof.Laws

/-- The word of a command is a word of one row of spec/opcode_table.json, the row with the command's mnemonic. -/
def TableRow.Statement (i : Instr) : Prop :=
  opcodeTable.filter (fun r => r.matchesWord (encode i)) = opcodeTable.filter fun r => r.mnemonic == i.mnemonic

theorem TableRow.nop : TableRow.Statement .nop := by unfold TableRow.Statement; decide

theorem TableRow.writeByte (x : Byte) : TableRow.Statement (.writeByte x) := by
  revert x; unfold TableRow.Statement; decide

theorem TableRow.clearInput : TableRow.Statement .clearInput := by unfold TableRow.Statement; decide

theorem TableRow.start : TableRow.Statement .start := by unfold TableRow.Statement; decide

theorem TableRow.resetState : TableRow.Statement .resetState := by unfold TableRow.Statement; decide

theorem TableRow.clearStatus : TableRow.Statement .clearStatus := by unfold TableRow.Statement; decide

end Sys2Proof.Laws
end

