-- ==== Sys2Proof/Laws/Step.lean ====
section
/-! SUPPORT. What one step can do, said once: the inversion of `exec`, of an accepted word and of the edge. -/

namespace Sys2Proof.Machine

/-- Everything a command can do at its accepting edge (R200 to R207). -/
theorem exec_cases {i : Instr} {s t : State} (h : exec i s = .next t) :
    (i = .nop ∧ t = s) ∨ (∃ x, i = .writeByte x ∧ t = appendByte x s) ∨ (i = .clearInput ∧ t = clearCount s) ∨
      (i = .start ∧ s.inCount ≠ 20#5 ∧ t = raise .invalidInputLength s) ∨
      (i = .start ∧ s.inCount = 20#5 ∧ t = loadTransform s) ∨
      (i = .resetState ∧ t = reloadHash s) ∨ (i = .clearStatus ∧ t = clearFlags s) := by
  cases i with
  | nop => cases h; simp
  | writeByte x => cases h; simp
  | clearInput => cases h; simp
  | start =>
    simp only [exec, execStart] at h
    split at h <;> cases h <;> simp_all
  | resetState => cases h; simp
  | clearStatus => cases h; simp

/-- Everything an accepted word can do (R190, R208). -/
theorem accept_cases {w : CmdWord} {s t : State} (h : accept w s = .next t) :
    (∃ i, decode w = .ok i ∧ exec i s = .next t) ∨ (∃ e, decode w = .error e ∧ t = raise .illegalCommand s) := by
  unfold accept at h
  split at h
  · next i hi => exact .inl ⟨i, hi, h⟩
  · next e he => cases h; exact .inr ⟨e, he, rfl⟩

/-- Everything an edge can do (R190). -/
theorem edge_cases {p : PortIn} {s t : State} (h : edge p s = .next t) :
    (p.rst = true ∧ t = resetStep s) ∨
      (p.rst = false ∧ s.fsm = .idle ∧ p.cmdValid = true ∧ accept p.cmd s = .next t) ∨
      (p.rst = false ∧ s.fsm = .idle ∧ p.cmdValid = false ∧ t = s) ∨
      (p.rst = false ∧ s.fsm = .run ∧ t = runEdge s) ∨ (p.rst = false ∧ s.fsm = .fin ∧ t = finEdge s) := by
  unfold edge at h
  cases hr : p.rst
  · simp only [hr, Bool.false_eq_true, if_false] at h
    cases hf : s.fsm
    · simp only [hf] at h
      cases hv : p.cmdValid
      · simp only [hv, Bool.false_eq_true, if_false] at h; cases h; simp
      · simp only [hv, if_true] at h; simp [h]
    · simp only [hf] at h; cases h; simp
    · simp only [hf] at h; cases h; simp
  · simp only [hr, if_true] at h; cases h; simp

/-- A step is the edge on the sampled ports (R12). -/
theorem step_eq_edge (s : State) : step s = edge s.sampledPorts s.dropPorts := rfl

/-- Everything a step can do, in terms of the state before it (R190). -/
theorem step_cases {s t : State} (h : step s = .next t) :
    (s.sampledPorts.rst = true ∧ t = resetStep s.dropPorts) ∨
      (s.sampledPorts.rst = false ∧
        ((s.fsm = .idle ∧ s.sampledPorts.cmdValid = true ∧
            ((∃ i, decode s.sampledPorts.cmd = .ok i ∧ exec i s.dropPorts = .next t) ∨
              (∃ e, decode s.sampledPorts.cmd = .error e ∧ t = raise .illegalCommand s.dropPorts))) ∨
          (s.fsm = .idle ∧ s.sampledPorts.cmdValid = false ∧ t = s.dropPorts) ∨
          (s.fsm = .run ∧ t = runEdge s.dropPorts) ∨ (s.fsm = .fin ∧ t = finEdge s.dropPorts))) := by
  rcases edge_cases h with h | h | h | h | h
  · exact .inl h
  · exact .inr ⟨h.1, .inl ⟨h.2.1, h.2.2.1, accept_cases h.2.2.2⟩⟩
  · exact .inr ⟨h.1, .inr (.inl ⟨h.2.1, h.2.2⟩)⟩
  · exact .inr ⟨h.1, .inr (.inr (.inl ⟨h.2.1, h.2.2⟩))⟩
  · exact .inr ⟨h.1, .inr (.inr (.inr ⟨h.2.1, h.2.2⟩))⟩

/-- The ports a step samples when the list is not used up. -/
@[simp] theorem sampledPorts_cons {s : State} {p : PortIn} {ps : List PortIn} (h : s.ports = p :: ps) :
    s.sampledPorts = p := by simp [State.sampledPorts, h]

/-- What is left of a list that is not used up. -/
theorem dropPorts_cons {s : State} {p : PortIn} {ps : List PortIn} (h : s.ports = p :: ps) :
    s.dropPorts = { s with ports := ps } := by simp [State.dropPorts, h]

/-- A step on explicit ports is the edge on the first of them. -/
theorem step_cons {s : State} {p : PortIn} {ps : List PortIn} (h : s.ports = p :: ps) :
    step s = edge p { s with ports := ps } := by
  rw [step_eq_edge, sampledPorts_cons h, dropPorts_cons h]

/-- A reset edge, whatever the state (R260). -/
@[simp] theorem edge_of_rst {p : PortIn} (h : p.rst = true) (s : State) : edge p s = .next (resetStep s) := by
  simp [edge, h]

/-- A RUN edge (R191). -/
theorem edge_of_run {p : PortIn} (h : p.rst = false) {s : State} (hf : s.fsm = .run) :
    edge p s = .next (runEdge s) := by simp [edge, h, hf]

/-- A FIN edge (R192). -/
theorem edge_of_fin {p : PortIn} (h : p.rst = false) {s : State} (hf : s.fsm = .fin) :
    edge p s = .next (finEdge s) := by simp [edge, h, hf]

/-- An accepting edge (R190). -/
theorem edge_of_offer {w : CmdWord} {s : State} (hf : s.fsm = .idle) : edge (.offer w) s = accept w s := by
  simp [edge, PortIn.offer, hf]

/-- An accepted word that is a command (R190). -/
theorem accept_of_ok {w : CmdWord} {i : Instr} (h : decode w = .ok i) (s : State) : accept w s = exec i s := by
  simp [accept, h]

/-- The word of a command is accepted as that command. -/
@[simp] theorem accept_start (s : State) : accept 0x0300#16 s = execStart s := rfl

/-- START with twenty bytes (R203). -/
theorem execStart_of_twenty {s : State} (h : s.inCount = 20#5) : execStart s = .next (loadTransform s) := by
  simp [execStart, h]

/-- START with any other count (R232). -/
theorem execStart_of_other {s : State} (h : s.inCount ≠ 20#5) :
    execStart s = .next (raise .invalidInputLength s) := by
  unfold execStart; exact if_pos h

end Sys2Proof.Machine
end

