-- ==== Sys2Proof/Laws/Run.lean ====
section
/-! SUPPORT. Runs of several edges. -/

namespace Sys2Proof.Machine

@[simp] theorem runEdges_zero (s : State) : runEdges 0 s = .next s := rfl

/-- One edge more at the front. -/
theorem runEdges_succ {s t : State} (n : Nat) (h : step s = .next t) : runEdges (n + 1) s = runEdges n t := by
  simp [runEdges, h]

/-- A run is a run of its first part and then of the rest. -/
theorem runEdges_add {m : Nat} {s t : State} (n : Nat) (h : runEdges m s = .next t) :
    runEdges (m + n) s = runEdges n t := by
  induction m generalizing s with
  | zero => cases h; simp
  | succ m ih =>
    rw [Nat.add_right_comm]
    cases hs : step s with
    | next u => rw [runEdges_succ _ hs] at h ⊢; exact ih h
    | fault r => simp [runEdges, hs] at h
    | refused r => simp [runEdges, hs] at h

/-- A run is the host interface's run of the machine. -/
theorem runEdges_eq_core_run (n : Nat) (s : State) : runEdges n s = Host.Core.run core n s := by
  induction n generalizing s with
  | zero => rfl
  | succ n ih =>
    have hc : Host.Core.step core s = step s := rfl
    simp only [runEdges, Host.Core.run, hc]
    cases step s with
    | next u => exact ih u
    | fault r => rfl
    | refused r => rfl

/-- `Rounds` is the first 80 rounds. The literal 80 is best generalised before a goal that holds both sides is unified. -/
theorem rounds_eq (s : Vector Word 5) (b : Vector Word 16) :
    rounds s b = roundsUpTo (schedule b) (Working.ofWords s) 80 := rfl

end Sys2Proof.Machine
end

