-- ==== Sys2Proof/Laws/Schedule.lean ====
section
/-! SUPPORT. The 80-word array: its length, and that its words do not change as it grows (42_message_schedule.md). -/

namespace Sys2Proof.Machine

@[simp] theorem scheduleUpTo_length (b : Vector Word 16) (n : Nat) : (scheduleUpTo b n).length = n + 16 := by
  induction n with
  | zero => simp [scheduleUpTo]
  | succ n ih => simp [scheduleUpTo, ih]

/-- A word of the array stays when the array grows. -/
theorem scheduleUpTo_stable (b : Vector Word 16) (n k i : Nat) (h : i < n + 16) :
    (scheduleUpTo b (n + k)).getD i 0 = (scheduleUpTo b n).getD i 0 := by
  induction k with
  | zero => rfl
  | succ k ih =>
    rw [← ih, ← Nat.add_assoc]
    simp only [scheduleUpTo]
    rw [List.getD_append _ _ _ _ (by simp; omega)]

/-- The newest word of the array is the recurrence's. -/
theorem scheduleUpTo_newest (b : Vector Word 16) (n : Nat) :
    (scheduleUpTo b (n + 1)).getD (n + 16) 0 =
      scheduleWord ((scheduleUpTo b n).getD (n + 13) 0) ((scheduleUpTo b n).getD (n + 8) 0)
        ((scheduleUpTo b n).getD (n + 2) 0) ((scheduleUpTo b n).getD n 0) := by
  simp only [scheduleUpTo]
  rw [List.getD_append_right _ _ _ _ (by simp)]
  simp only [scheduleUpTo_length, Nat.sub_self, List.getD_cons_zero]
  rfl

/-- A word of the schedule stands in every array that is long enough to hold it. -/
theorem schedule_of_prefix (b : Vector Word 16) (n i : Nat) (hn : n ≤ 64) (h : i < n + 16) :
    schedule b i = (scheduleUpTo b n).getD i 0 := by
  have := scheduleUpTo_stable b n (64 - n) i h
  rw [Nat.add_sub_cancel' hn] at this
  exact this

/-- The window's words one edge later, all but the last. -/
theorem windowShift_get (wr : Vector Word 16) (j : Nat) (h : j < 15) : (windowShift wr)[j] = wr[j + 1] := by
  have : j = 0 ∨ j = 1 ∨ j = 2 ∨ j = 3 ∨ j = 4 ∨ j = 5 ∨ j = 6 ∨ j = 7 ∨ j = 8 ∨ j = 9 ∨ j = 10 ∨ j = 11 ∨ j = 12 ∨
      j = 13 ∨ j = 14 := by omega
  rcases this with rfl | rfl | rfl | rfl | rfl | rfl | rfl | rfl | rfl | rfl | rfl | rfl | rfl | rfl | rfl <;> rfl

/-- The window's last word one edge later (R123). -/
theorem windowShift_last (wr : Vector Word 16) :
    (windowShift wr)[15] = scheduleWord wr[13] wr[8] wr[2] wr[0] := rfl

/-- One shift keeps a window on any sequence that obeys the recurrence of R121 (the induction step of R124). -/
theorem windowShift_tracks (w : Nat → Word) (t : Nat) (wr : Vector Word 16)
    (hw : ∀ n, n < 64 → w (n + 16) = scheduleWord (w (n + 13)) (w (n + 8)) (w (n + 2)) (w n))
    (h : ∀ j : Fin 16, t + j.val ≤ 79 → wr[j.val] = w (t + j.val)) :
    ∀ j : Fin 16, t + 1 + j.val ≤ 79 → (windowShift wr)[j.val] = w (t + 1 + j.val) := by
  intro j hj
  by_cases h15 : j.val < 15
  · rw [windowShift_get wr j.val h15, h ⟨j.val + 1, by omega⟩ (by simp; omega)]
    congr 1; simp; omega
  · have hj15 : j = 15 := Fin.ext (by simp; omega)
    subst hj15
    change (windowShift wr)[15] = w (t + 1 + 15)
    change t + 1 + 15 ≤ 79 at hj
    have h0 : wr[0] = w t := h 0 (by simp; omega)
    have h2 : wr[2] = w (t + 2) := h 2 (by change t + 2 ≤ 79; omega)
    have h8 : wr[8] = w (t + 8) := h 8 (by change t + 8 ≤ 79; omega)
    have h13 : wr[13] = w (t + 13) := h 13 (by change t + 13 ≤ 79; omega)
    rw [windowShift_last, h0, h2, h8, h13, show t + 1 + 15 = t + 16 by omega, hw t (by omega)]

end Sys2Proof.Machine
end

