-- ==== Sys2Proof/Tests/Slice0.lean ====
section
/-! SUPPORT. Tests of the model: ill-formed lines, words written out from 30_encoding.md R72, one step each with the expected
values of spec/ (95_test_vectors.md and the examples of the rules), and a witness for the hypotheses of each statement. -/

namespace Sys2Proof.Tests

open Sys2Proof Sys2Proof.Machine

/-! ### Helpers -/

/-- The input 00 01 ... 13. -/
def counting : Vector Byte 20 := #v[0, 1, 2, 3, 4, 5, 6, 7, 8, 9, 10, 11, 12, 13, 14, 15, 16, 17, 18, 19]

/-- A core with twenty bytes loaded. -/
def loaded (acc : Bool) : State := { State.resetOf acc with ibuf := counting, inCount := 20#5 }

/-- A core with `n` in its input counter and error code `e`. -/
def counted (n : BitVec 5) (e : ErrCode) (done : Bool) : State :=
  { State.resetOf false with inCount := n, err := e, done := done }

/-- The state with these ports at the coming edges. -/
def driven (s : State) (ps : List PortIn) : State := { s with ports := ps }

/-- The next state of an outcome. -/
def nextOf (r : Host.Outcome State Fault Refusal) : Option State :=
  match r with
  | .next t => some t
  | .fault _ => none
  | .refused _ => none

/-- What `f` sees after the word `w` is offered for one edge. -/
def afterWord {α : Type} (f : State → α) (s : State) (w : CmdWord) : Option α :=
  (nextOf (step (driven s [.offer w]))).map f

/-! ### WellFormed: an ill-formed line for each check (R76, R77) -/

theorem test_wf_operand_missing : SourceLine.wellFormed (.command .writeByte []) = false := by decide
theorem test_wf_operand_twice : SourceLine.wellFormed (.command .writeByte [1, 2]) = false := by decide
theorem test_wf_operand_range : SourceLine.wellFormed (.command .writeByte [256]) = false := by decide
theorem test_wf_operand_top : SourceLine.wellFormed (.command .writeByte [255]) = true := by decide
theorem test_wf_nop_operand : SourceLine.wellFormed (.command .nop [0]) = false := by decide
theorem test_wf_clear_input_operand : SourceLine.wellFormed (.command .clearInput [0]) = false := by decide
theorem test_wf_start_operand : SourceLine.wellFormed (.command .start [1]) = false := by decide
theorem test_wf_reset_state_operand : SourceLine.wellFormed (.command .resetState [0]) = false := by decide
theorem test_wf_clear_status_operand : SourceLine.wellFormed (.command .clearStatus [0]) = false := by decide
theorem test_wf_raw_word : SourceLine.wellFormed (.rawWord 65536) = false := by decide
theorem test_wf_load20_count : SourceLine.wellFormed (.load20 (List.replicate 19 0)) = false := by decide
theorem test_wf_load20_range : SourceLine.wellFormed (.load20 (256 :: List.replicate 19 0)) = false := by decide
theorem test_wf_hash20_count : SourceLine.wellFormed (.hash20 (List.replicate 21 0)) = false := by decide

/-! ### Text to host actions (R76, R77) -/

theorem test_transcribe_line :
    transcribeLine " write_Byte 0x13 ; the last byte".toList = some [.send 0x0113] := by decide
theorem test_transcribe_raw_word : transcribeLine ".word 0x0301".toList = some [.send 0x0301] := by decide
theorem test_transcribe_refuses :
    transcribeLine "START 1".toList = none ∧ transcribeLine "WRITE_BYTE 256".toList = none ∧
      transcribeLine "WRITE_BYTE".toList = none ∧ transcribeLine "HALT".toList = none := by decide
theorem test_transcribe_stream :
    transcribe "CLEAR_INPUT\n\nWAIT ; hold\nstart".toList = some [.send 0x0200, .wait, .send 0x0300] := by decide

/-- WAIT uses no edge once BUSY = 0, and a send is dropped from the script at the edge that accepts it (R77, R193). -/
theorem test_script_ports :
    scriptPorts (State.resetOf false) [.wait, .send 0x0100] = (.offer 0x0100, []) ∧
      scriptPorts { State.resetOf false with fsm := .run } [.wait, .send 0x0100] = (.quiet, [.wait, .send 0x0100]) ∧
      scriptPorts { State.resetOf false with fsm := .run } [.send 0x0100] = (.offer 0x0100, [.send 0x0100]) := by decide

/-! ### Decoding: words written out from R72 -/

theorem test_decode_nop : decodeTableWord 16 0b0000000000000000 = some .nop := by decide
theorem test_decode_write_byte : decodeTableWord 16 0b0000000111111111 = some (.writeByte 0xFF) := by decide
theorem test_decode_clear_input : decodeTableWord 16 0b0000001000000000 = some .clearInput := by decide
theorem test_decode_start : decodeTableWord 16 0b0000001100000000 = some .start := by decide
theorem test_decode_reset_state : decodeTableWord 16 0b0000010000000000 = some .resetState := by decide
theorem test_decode_clear_status : decodeTableWord 16 0b0000010100000000 = some .clearStatus := by decide
theorem test_decode_illegal :
    decodeTableWord 16 0x0600 = none ∧ decodeTableWord 16 0xFFFF = none ∧ decodeTableWord 16 0x0001 = none ∧
      decodeTableWord 16 0x0301 = none ∧ decodeTableWord 17 0x10000 = none := by decide
theorem test_fetch_word :
    (nextOf (step (State.reset.withFetchWord 16 0x01AB))).map (fun t => (t.ibuf[0], t.inCount)) = some (0xAB, 1) := by
  decide

/-! ### One step of each command (R200 to R208, 95_test_vectors.md V-L2-9 to V-L2-11) -/

theorem test_reset_outputs :
    (State.resetOf false).status = 0x0000 ∧ (State.resetOf true).status = 0x0200 ∧
      (State.resetOf true).dout = 0x67452301efcdab8998badcfe10325476c3d2e1f0 := by decide
theorem test_nop : afterWord State.status (counted 20#5 .none true) 0x0000 = some 0x0142 := by decide
theorem test_write_byte_first :
    afterWord (fun t => (t.status, t.ibuf[0])) (State.resetOf false) 0x01AB = some (0x0010, 0xAB) := by decide
theorem test_write_byte_saturates :
    afterWord State.status (counted 20#5 .none false) 0x0100 = some 0x0150 ∧
      afterWord State.status (counted 21#5 .none false) 0x0100 = some 0x0150 := by decide
theorem test_clear_input : afterWord State.status (counted 21#5 .invalidInputLength false) 0x0200 = some 0x0004 := by decide
theorem test_start_rejected :
    afterWord State.status (counted 19#5 .none false) 0x0300 = some 0x0134 ∧
      afterWord State.status (counted 21#5 .none false) 0x0300 = some 0x0154 := by decide
theorem test_start_loads :
    afterWord (fun t => (t.status, t.wr[0], t.wr[4], t.wr[5], t.wr[15], t.work.e)) (loaded false) 0x0300 =
      some (0x0141, 0x00010203, 0x10111213, 0x80000000, 0x000000A0, 0xC3D2E1F0) := by decide
theorem test_reset_state :
    afterWord (fun t => (t.status, t.dout)) { counted 20#5 .none true with h := #v[1, 2, 3, 4, 5] } 0x0400 =
      some (0x0140, 0x67452301efcdab8998badcfe10325476c3d2e1f0) := by decide
theorem test_clear_status : afterWord State.status (counted 21#5 .invalidInputLength false) 0x0500 = some 0x0150 := by decide
theorem test_illegal_words :
    afterWord State.status (counted 21#5 .none false) 0x0600 = some 0x0158 ∧
      afterWord State.status (counted 20#5 .none true) 0x0501 = some 0x014A ∧
      afterWord State.err (counted 5#5 .none false) 0x0301 = some .illegalCommand := by decide

/-! ### Datapath (41 to 44) -/

theorem test_block_counting :
    inputBlock counting = #v[0x00010203, 0x04050607, 0x08090A0B, 0x0C0D0E0F, 0x10111213, 0x80000000, 0, 0, 0, 0, 0, 0, 0,
      0, 0, 0x000000A0] := by decide
theorem test_encode_iv :
    beEncode iv = #v[0x67, 0x45, 0x23, 0x01, 0xEF, 0xCD, 0xAB, 0x89, 0x98, 0xBA, 0xDC, 0xFE, 0x10, 0x32, 0x54, 0x76, 0xC3,
      0xD2, 0xE1, 0xF0] := by decide
theorem test_rotl :
    rotl 0x12345678 1 = 0x2468ACF0 ∧ rotl 0x12345678 5 = 0x468ACF02 ∧ rotl 0x12345678 30 = 0x048D159E ∧
      rotl 0xC0000001 5 = 0x00000038 := by decide
theorem test_schedule_words :
    (scheduleUpTo (inputBlock counting) 3).getD 16 0 = 0x10101010 ∧
      (scheduleUpTo (inputBlock counting) 3).getD 18 0 = 0x30303170 := by decide
theorem test_round_functions :
    f1 0xF0F0F0F0 0xFF00FF00 0x0F0F0F0F = 0xFF0FFF0F ∧ f2 0xF0F0F0F0 0xFF00FF00 0x0F0F0F0F = 0x00FF00FF ∧
      f3 0xF0F0F0F0 0xFF00FF00 0x0F0F0F0F = 0xFF00FF00 := by decide
theorem test_round_from_iv :
    roundStep (phase 0) 0 (.ofWords iv) = ⟨0x9FB498B3, 0x67452301, 0x7BF36AE2, 0x98BADCFE, 0x10325476⟩ ∧
      (roundStep (phase 20) 0 (.ofWords iv)).a = 0x829650BE ∧ (roundStep (phase 40) 0 (.ofWords iv)).a = 0xD44DDBF6 ∧
      (roundStep (phase 60) 0 (.ofWords iv)).a = 0xDE1F26F3 := by decide
theorem test_round_sum_wraps :
    roundTemp 0 0xFFFFFFFF ⟨0xFFFFFFFF, 0xFFFFFFFF, 0xFFFFFFFF, 0xFFFFFFFF, 0xFFFFFFFF⟩ = 0x5A827995 ∧
      roundTemp 3 0xFFFFFFFF ⟨0xFFFFFFFF, 0xFFFFFFFF, 0xFFFFFFFF, 0xFFFFFFFF, 0xFFFFFFFF⟩ = 0xCA62C1D2 := by decide

/-- The last round of the all-zero input, W[79] = 03E9CE40 in the window (43_round_pipeline.md section 5). -/
def beforeLastRound : State :=
  { State.resetOf false with
    fsm := .run
    t := 79#7
    inCount := 20#5
    work := ⟨0x3196BC9B, 0x8C55528B, 0x92A732F7, 0xB5AEAD9F, 0x53A1EEDE⟩
    wr := #v[0x03E9CE40, 1, 2, 3, 4, 5, 6, 7, 8, 9, 10, 11, 12, 13, 14, 15] }

theorem test_run_edge_last_round :
    (nextOf (step beforeLastRound)).map (fun t => (t.work, t.t, t.fsm, t.wr[0])) =
      some (⟨0x0022E03D, 0x3196BC9B, 0xE31554A2, 0x92A732F7, 0xB5AEAD9F⟩, 0#7, .fin, 1) := by decide

/-- The FIN edge of the all-zero input (44_digest_encoder.md R171, 95_test_vectors.md V-L2-6). -/
theorem test_fin_edge_pure :
    (nextOf (step { beforeLastRound with
        fsm := .fin, work := ⟨0x0022E03D, 0x3196BC9B, 0xE31554A2, 0x92A732F7, 0xB5AEAD9F⟩, h := #v[1, 2, 3, 4, 5] })).map
      (fun t => (t.status, t.dout)) = some (0x0142, 0x6768033e216468247bd031a0a2d9876d79818f8f) := by decide

/-- The adds wrap word by word (95_test_vectors.md V-L2-8); in accumulator mode the seed is `H`. -/
theorem test_fin_edge_accumulates :
    (nextOf (step { beforeLastRound with
        accumulate := true, fsm := .fin,
        work := ⟨0x98BADCFF, 0x10325477, 0x67452300, 0xEFCDAB8A, 0x3C2D1E10⟩ })).map State.h =
      some #v[0x00000000, 0x00000000, 0xFFFFFFFE, 0x00000000, 0x00000000] := by decide

/-! ### Reset and the handshake (R190, R193, R260, R264) -/

/-- A reset edge in the middle of a transform, with a START offered that is not taken (95_test_vectors.md V-L2-13). -/
theorem test_reset_in_flight :
    (nextOf (step (driven { beforeLastRound with accumulate := true, h := #v[1, 2, 3, 4, 5] } [⟨true, true, 0x0300⟩]))).map
      (fun t => (t.status, t.fsm, t.dout, t.inCount)) =
      some (0x0200, .idle, 0x67452301efcdab8998badcfe10325476c3d2e1f0, 0) := by decide
theorem test_busy_takes_nothing :
    (nextOf (step (driven { beforeLastRound with h := #v[1, 2, 3, 4, 5], t := 3#7 } [.offer 0x0400]))).map
      (fun t => (t.h, t.t, t.fsm)) = some (#v[1, 2, 3, 4, 5], 4#7, .run) := by decide
theorem test_idle_edge : nextOf (step State.reset) = some State.reset := rfl

/-! ### Witnesses: states and operands that meet the hypotheses of the statements -/

theorem witness_DecodeEncodeAgree :
    Instr.wellFormed (.writeByte 0xFF) = true ∧ decode 0x01FF = .ok (.writeByte 0xFF) := ⟨rfl, rfl⟩

theorem witness_IllegalWordsExactly :
    (driven (loaded true) [.offer 0x0601]).fsm = .idle ∧
      (driven (loaded true) [.offer 0x0601]).ports = .offer 0x0601 :: [] ∧ ∀ i, decode 0x0601 ≠ .ok i :=
  ⟨rfl, rfl, fun _ h => by cases h⟩

theorem witness_OpcodeTableRowsDecode :
    (⟨"WRITE_BYTE", 0x0100, 0xFF00⟩ : OpcodeRow) ∈ opcodeTable ∧
      OpcodeRow.matchesWord ⟨"WRITE_BYTE", 0x0100, 0xFF00⟩ 0x01FF = true := by decide

theorem witness_SourceLinesSpell :
    (255 : Nat) ≤ 255 ∧ Mnemonic.start ≠ .writeByte ∧ (List.replicate 20 255).length = 20 ∧
      ∀ x ∈ List.replicate 20 255, x ≤ 255 := by decide

theorem witness_StepRunsDecodedCommand :
    (driven (loaded true) [.offer 0x0300]).fsm = .idle ∧
      (driven (loaded true) [.offer 0x0300]).ports = .offer 0x0300 :: [] ∧ (PortIn.offer 0x0300).rst = false ∧
      (PortIn.offer 0x0300).cmdValid = true ∧ decode (PortIn.offer 0x0300).cmd = .ok .start :=
  ⟨rfl, rfl, rfl, rfl, rfl⟩

theorem witness_PlacedWordRunsNext : decodeTableWord 16 0x0113 = some (.writeByte 0x13) := by decide

theorem witness_IllegalWordSetsErrOnly_opcode :
    (driven (loaded true) [⟨false, true, 0x0600⟩]).fsm = .idle ∧
      (driven (loaded true) [⟨false, true, 0x0600⟩]).ports = ⟨false, true, 0x0600⟩ :: [] ∧
      0x0600 ≤ (0x0600#16).toNat := by decide

theorem witness_IllegalWordSetsErrOnly_operand :
    (driven (loaded true) [⟨false, true, 0x0501⟩]).fsm = .idle ∧
      (driven (loaded true) [⟨false, true, 0x0501⟩]).ports = ⟨false, true, 0x0501⟩ :: [] ∧
      ((0x0501#16).toNat / 256 ≠ 1 ∧ (0x0501#16).toNat % 256 ≠ 0) := by decide

theorem witness_IdleEdgesHold :
    (driven (loaded true) ([⟨false, false, 0x0300⟩, .quiet] ++ [.offer 0x0300])).fsm = .idle ∧
      (∀ p ∈ [⟨false, false, 0x0300⟩, PortIn.quiet], p.rst = false ∧ p.cmdValid = false) ∧
      (driven (loaded true) ([⟨false, false, 0x0300⟩, .quiet] ++ [.offer 0x0300])).ports =
        [⟨false, false, 0x0300⟩, .quiet] ++ [.offer 0x0300] := by decide

theorem witness_UsedUpPortsAreQuiet : beforeLastRound.ports = [] ∧ (loaded true).ports = [] := by decide

theorem witness_BusyEdgeIgnoresCommand_busy : beforeLastRound.fsm ≠ .idle ∨ false = true := by decide

theorem witness_BusyEdgeIgnoresCommand_reset : (loaded true).fsm ≠ .idle ∨ true = true := by decide

theorem witness_ResetEdgesFromAnyState :
    (∀ q ∈ PortIn.reset :: [⟨true, true, 0x0300⟩], q.rst = true) ∧
      (driven beforeLastRound [.reset, ⟨true, true, 0x0300⟩, .offer 0x0000]).ports =
        .reset :: [⟨true, true, 0x0300⟩] ++ [.offer 0x0000] := by decide

theorem witness_StartLoadsTransform : (loaded true).inCount = 20#5 ∧ (loaded false).inCount = 20#5 := by decide

theorem witness_StartRejectsWrongLength :
    (counted 19#5 .none false).inCount ≠ 20#5 ∧ (counted 21#5 .none false).inCount ≠ 20#5 := by decide

theorem witness_RunEdgeDoesOneRound_each_phase :
    ∀ t ∈ [0#7, 19#7, 20#7, 39#7, 40#7, 59#7, 60#7, 79#7],
      (driven { beforeLastRound with t := t } [.offer 0x0400]).fsm = .run ∧
        (driven { beforeLastRound with t := t } [.offer 0x0400]).t.toNat < 80 ∧
        (driven { beforeLastRound with t := t } [.offer 0x0400]).ports = .offer 0x0400 :: [] ∧
        (PortIn.offer 0x0400).rst = false := by decide

theorem witness_FinEdgeAddsIntoHash :
    (driven { beforeLastRound with fsm := .fin } [.quiet]).fsm = .fin ∧
      (driven { beforeLastRound with fsm := .fin } [.quiet]).ports = .quiet :: [] ∧ PortIn.quiet.rst = false := by decide

theorem witness_RotlMovesBits : 0 < 31 ∧ 31 < 32 ∧ 31 < 32 := by decide

theorem witness_ScheduleRecurrence : 16 ≤ 79 ∧ 79 < 80 := by decide

theorem witness_WindowAgreesWithSchedule : 79 < 80 ∧ 79 + (0 : Fin 16).val ≤ 79 := by decide

theorem witness_PhaseIsFloor : 79 < 80 := by decide

theorem witness_RoundFunctionsBitwise : 31 < 32 := by decide

/-- A command accepted in IDLE. -/
def accepting (s : State) (w : CmdWord) : State := driven s [.offer w]

theorem witness_AccumulateNeverChanges : (nextOf (step (accepting (loaded true) 0x0300))).isSome = true := by decide

theorem witness_HashChangesOnlyAt :
    ∃ t, step (driven { State.resetOf true with h := #v[1, 2, 3, 4, 5] } [.offer 0x0400]) = .next t ∧
      t.h ≠ (driven { State.resetOf true with h := #v[1, 2, 3, 4, 5] } [.offer 0x0400]).h :=
  ⟨_, rfl, by decide⟩

theorem witness_HashChangesOnlyAt_fin :
    ∃ t, step { beforeLastRound with fsm := .fin } = .next t ∧ t.h ≠ beforeLastRound.h := ⟨_, rfl, by decide⟩

theorem witness_HashChangesOnlyAt_reset :
    ∃ t, step (driven { State.resetOf true with h := #v[1, 2, 3, 4, 5] } [.reset]) = .next t ∧
      t.h ≠ #v[1, 2, 3, 4, 5] := ⟨_, rfl, by decide⟩

theorem witness_ErrChangesOnlyAt_length :
    ∃ t, step (accepting (State.resetOf true) 0x0300) = .next t ∧ t.err ≠ (State.resetOf true).err :=
  ⟨_, rfl, by decide⟩

theorem witness_ErrChangesOnlyAt_illegal :
    ∃ t, step (accepting (State.resetOf true) 0xFFFF) = .next t ∧ t.err ≠ (State.resetOf true).err :=
  ⟨_, rfl, by decide⟩

theorem witness_ErrChangesOnlyAt_clear :
    ∃ t, step (accepting (counted 0#5 .illegalCommand false) 0x0500) = .next t ∧ t.err ≠ .illegalCommand :=
  ⟨_, rfl, by decide⟩

theorem witness_ErrBlocksNothing : ∃ t, step (accepting (loaded true) 0x0300) = .next t := ⟨_, rfl⟩

theorem witness_DoneChangesOnlyAt_set :
    ∃ t, step { beforeLastRound with fsm := .fin } = .next t ∧ beforeLastRound.done = false ∧ t.done = true :=
  ⟨_, rfl, by decide⟩

theorem witness_DoneChangesOnlyAt_clear :
    ∃ t, step (accepting { loaded true with done := true } 0x0300) = .next t ∧ t.done = false := ⟨_, rfl, by decide⟩

theorem witness_InputByteChangesOnlyAt :
    ∃ t, step (accepting (counted 19#5 .none false) 0x0113) = .next t ∧
      t.ibuf[(19 : Fin 20).val] ≠ (counted 19#5 .none false).ibuf[(19 : Fin 20).val] := ⟨_, rfl, by decide⟩

theorem witness_SequencerMoves_not_accepted :
    ∃ t, step (accepting { loaded true with inCount := 19#5, t := 5#7 } 0x0300) = .next t ∧
      (accepting { loaded true with inCount := 19#5, t := 5#7 } 0x0300).fsm = .idle ∧ t.fsm = .idle ∧ t.t = 5#7 :=
  ⟨_, rfl, by decide⟩

theorem witness_SequencerMoves :
    (∃ t, step (accepting (loaded true) 0x0300) = .next t ∧ (accepting (loaded true) 0x0300).sampledPorts.rst = false) ∧
      (∃ t, step beforeLastRound = .next t ∧ beforeLastRound.sampledPorts.rst = false) ∧
      (∃ t, step { beforeLastRound with fsm := .fin } = .next t) := ⟨⟨_, rfl, by decide⟩, ⟨_, rfl, by decide⟩, ⟨_, rfl⟩⟩

theorem witness_LegalStatesKept : beforeLastRound.legal ∧ ∃ t, step beforeLastRound = .next t :=
  ⟨by decide, _, rfl⟩

/-- A core right after the load edge of a transform. -/
def justLoaded : State := loadTransform (loaded true)

/-- Its window is the block, which is the first sixteen words of the schedule. -/
theorem witness_TransformStaysOnTrack :
    justLoaded.legal ∧ justLoaded.onTrack ∧ justLoaded.fsm = .run ∧ ∃ t, step justLoaded = .next t := by
  refine ⟨by decide, ⟨fun _ => ⟨rfl, fun j _ => ?_⟩, fun c => absurd c (by decide)⟩, rfl, _, rfl⟩
  have hj : justLoaded.t.toNat + j.val = j.val := Nat.zero_add _
  rw [hj]
  change (inputBlock counting)[j.val] = schedule (inputBlock counting) j.val
  rw [schedule_of_prefix (inputBlock counting) 0 j.val (by decide) (by omega)]
  simp [scheduleUpTo]

theorem witness_HiddenStateUnobservable :
    (driven { loaded true with t := 5#7, work := ⟨1, 2, 3, 4, 5⟩ } [.offer 0x0300]).sameVisible
      (driven (loaded true) [.offer 0x0300]) := by decide

/-- Eighty-one edges on which a host holds RESET_STATE. -/
def heldReset : List PortIn := List.replicate 81 (.offer 0x0400)

theorem witness_TransformRefinesFunction :
    (driven (loaded true) (.offer 0x0300 :: heldReset ++ [])).fsm = .idle ∧
      (driven (loaded true) (.offer 0x0300 :: heldReset ++ [])).inCount = 20#5 ∧ heldReset.length = 81 ∧
      (∀ p ∈ heldReset, p.rst = false) ∧
      (driven (loaded true) (.offer 0x0300 :: heldReset ++ [])).ports = .offer 0x0300 :: heldReset ++ [] := by decide

theorem witness_StartOccupiesEightyTwoEdges :
    (driven (loaded false) (.offer 0x0300 :: heldReset ++ [])).fsm = .idle ∧
      (driven (loaded false) (.offer 0x0300 :: heldReset ++ [])).inCount = 20#5 ∧ heldReset.length = 81 ∧
      (∀ p ∈ heldReset, p.rst = false) ∧
      (driven (loaded false) (.offer 0x0300 :: heldReset ++ [])).ports = .offer 0x0300 :: heldReset ++ [] ∧
      (1 ≤ 1 ∧ 1 ≤ 81) ∧ (1 ≤ 81 ∧ 81 ≤ 81) := by decide

theorem witness_HeldCommandTakenAfterTransform :
    (driven (loaded false) (.offer 0x0300 :: List.replicate 82 (.offer (encode .resetState)) ++ [])).fsm = .idle ∧
      (driven (loaded false) (.offer 0x0300 :: List.replicate 82 (.offer (encode .resetState)) ++ [])).inCount = 20#5 ∧
      (driven (loaded false) (.offer 0x0300 :: List.replicate 82 (.offer (encode .resetState)) ++ [])).ports =
        .offer 0x0300 :: List.replicate 82 (.offer (encode .resetState)) ++ [] := ⟨rfl, rfl, rfl⟩

theorem heldReset_no_reset : ∀ p ∈ heldReset, p.rst = false := by decide

/-- A core with another history than `loaded false`, but the same twenty bytes. -/
def otherHistory : State := { loaded false with h := #v[1, 2, 3, 4, 5], err := .illegalCommand, done := true }

theorem witness_PureModeForgetsHistory :
    (driven (loaded false) (.offer 0x0300 :: heldReset ++ [])).accumulate = false ∧
      (driven otherHistory (.offer 0x0300 :: heldReset ++ [])).accumulate = false ∧
      (driven (loaded false) (.offer 0x0300 :: heldReset ++ [])).fsm = .idle ∧
      (driven otherHistory (.offer 0x0300 :: heldReset ++ [])).fsm = .idle ∧
      (driven (loaded false) (.offer 0x0300 :: heldReset ++ [])).inCount = 20#5 ∧
      (driven otherHistory (.offer 0x0300 :: heldReset ++ [])).inCount = 20#5 ∧
      (driven (loaded false) (.offer 0x0300 :: heldReset ++ [])).ibuf =
        (driven otherHistory (.offer 0x0300 :: heldReset ++ [])).ibuf ∧
      heldReset.length = 81 ∧ (∀ p ∈ heldReset ++ heldReset, p.rst = false) ∧
      (driven (loaded false) (.offer 0x0300 :: heldReset ++ [])).ports = .offer 0x0300 :: heldReset ++ [] ∧
      (driven otherHistory (.offer 0x0300 :: heldReset ++ [])).ports = .offer 0x0300 :: heldReset ++ [] :=
  ⟨rfl, rfl, rfl, rfl, rfl, rfl, rfl, rfl,
    fun p hp => (List.mem_append.1 hp).elim (heldReset_no_reset p) (heldReset_no_reset p), rfl, rfl⟩

/-- A stream of `n` bytes after a CLEAR_INPUT, and then what follows. -/
def byteStream (n : Nat) (after : List PortIn) : List PortIn :=
  .offer 0x0200 :: ((List.replicate n (0xAB : Byte)).map fun x => .offer (0x01#8 ++ x)) ++ after

theorem witness_BytesAreCountedAndStored :
    ∀ n ∈ [0, 20, 21], (driven (loaded true) (byteStream n [])).fsm = .idle ∧
      (driven (loaded true) (byteStream n [])).ports =
        .offer 0x0200 :: ((List.replicate n (0xAB : Byte)).map fun x => .offer (0x01#8 ++ x)) ++ [] :=
  fun _ _ => ⟨rfl, rfl⟩

theorem witness_WrongLengthNeverHashed :
    ∀ n ∈ [0, 19, 21], (driven (loaded true) (byteStream n [.offer 0x0300])).fsm = .idle ∧
      (List.replicate n (0xAB : Byte)).length ≠ 20 ∧
      (driven (loaded true) (byteStream n [.offer 0x0300])).ports =
        .offer 0x0200 :: ((List.replicate n (0xAB : Byte)).map fun x => .offer (0x01#8 ++ x)) ++ .offer 0x0300 :: [] :=
  fun n hn => ⟨rfl, by revert n; decide, rfl⟩

theorem witness_CommandsRunOneAtATime :
    (loaded true).fsm = .idle ∧ (loaded true).ports = [] ∧ edgesOfAll [0x0300, 0x0400] (loaded true) = 83 :=
  ⟨rfl, rfl, rfl⟩

theorem witness_RepeatedStarts :
    (loaded true).fsm = .idle ∧ (loaded true).inCount = 20#5 ∧ (loaded true).ports = [] := by decide

theorem witness_HashChain : ([counting, counting] ≠ []) ∧ (State.resetOf true).fsm = .idle ∧ (State.resetOf true).ports = [] := by
  decide

end Sys2Proof.Tests
end

section
/-! PROOF. The outputs `dout` (10_state.md R35) and STATUS (R32, R33), field by field. -/

namespace Sys2Proof.Machine

/-! ### The words and bytes of `dout` -/

/-- Concatenation as numbers: the left operand counts in units of the right one's range. -/
theorem toNat_append_eq_mul_add {m n : Nat} (x : BitVec m) (y : BitVec n) :
    (x ++ y).toNat = x.toNat * 2 ^ n + y.toNat := by
  rw [BitVec.toNat_append, ← Nat.shiftLeft_add_eq_or_of_lt y.isLt, Nat.shiftLeft_eq]

/-- R35 as a number: the five words of `H` are the digits of `dout` in base 2^32. -/
theorem dout_toNat (s : State) :
    s.dout.toNat = s.h[0].toNat * 2 ^ 128 + s.h[1].toNat * 2 ^ 96 + s.h[2].toNat * 2 ^ 64 + s.h[3].toNat * 2 ^ 32 +
      s.h[4].toNat := by
  simp only [State.dout, toNat_append_eq_mul_add]
  ring

/-- R35: word `i` of `dout`, 0 the most significant, is `H[i]`. -/
theorem dout_word (s : State) (i : Fin 5) : s.dout.extractLsb' (128 - 32 * i.val) 32 = s.h[i.val] := by
  simp only [State.dout, BitVec.extractLsb'_append_eq_ite]
  fin_cases i <;> simp

/-- A byte of a 32-bit slice is a byte of the whole (R173). -/
theorem byteOfWord_extractLsb' {n : Nat} (x : BitVec n) (start k : Nat) (hk : k < 4) :
    byteOfWord (x.extractLsb' start 32) k = x.extractLsb' (start + (24 - 8 * k)) 8 := by
  apply BitVec.eq_of_getLsbD_eq
  intro i hi
  have inWord : 24 - 8 * k + i < 32 := by omega
  simp [byteOfWord, hi, inWord, Nat.add_assoc]

/-- R173: byte `j` of the encoding is byte `j mod 4` of word `j / 4`. -/
theorem beEncode_get (h : Vector Word 5) (j : Fin 20) :
    (beEncode h)[j.val] = byteOfWord (h[j.val / 4]'(by omega)) (j.val % 4) := by
  fin_cases j <;> rfl

/-- R35: byte `j` of `dout`, 0 the most significant, is byte `j` of the encoding of `H`. -/
theorem dout_byte (s : State) (j : Fin 20) : s.dout.extractLsb' (152 - 8 * j.val) 8 = (beEncode s.h)[j.val] := by
  have hword := dout_word s ⟨j.val / 4, by omega⟩
  have hplace : 152 - 8 * j.val = 128 - 32 * (j.val / 4) + (24 - 8 * (j.val % 4)) := by omega
  rw [beEncode_get, ← hword, byteOfWord_extractLsb' _ _ _ (by omega), hplace]

/-- R35, R21: what `dout` shows when `H` holds `IV`, as it does after reset (R261) and after RESET_STATE (R206). -/
theorem dout_of_iv {s : State} (h : s.h = iv) : s.dout = 0x67452301EFCDAB8998BADCFE10325476C3D2E1F0 := by
  rw [dout_congr (s := State.resetOf true) h]
  decide

/-- Settles O33: `dout` as a number, byte by byte, and from `IV`. -/
theorem doutIsEncodedHash : Obligations.DoutIsEncodedHash :=
  ⟨fun s => ⟨dout_toNat s, dout_byte s⟩, fun _ => dout_of_iv rfl⟩

/-! ### The fields of STATUS (R32)

Each lemma names a field by its place in the word: the low bit, or the low bit and the width. -/

theorem status_busyBit (s : State) : s.status.getLsbD 0 = s.busy := by
  simp only [State.status, BitVec.getLsbD_append]
  simp

theorem status_doneBit (s : State) : s.status.getLsbD 1 = s.done := by
  simp only [State.status, BitVec.getLsbD_append]
  simp

theorem status_errField (s : State) : s.status.extractLsb' 2 2 = s.err.code := by
  simp only [State.status, BitVec.extractLsb'_append_eq_ite]
  simp

theorem status_inCountField (s : State) : s.status.extractLsb' 4 5 = s.inCount := by
  simp only [State.status, BitVec.extractLsb'_append_eq_ite]
  simp

theorem status_accBit (s : State) : s.status.getLsbD 9 = s.accumulate := by
  simp only [State.status, BitVec.getLsbD_append]
  simp

theorem status_reservedField (s : State) : s.status.extractLsb' 10 6 = 0 := by
  simp only [State.status, BitVec.extractLsb'_append_eq_ite]
  simp

/-- R33, R261: after reset every bit of STATUS is 0 but ACC, which is the instance's parameter. -/
theorem status_resetOf (acc : Bool) : (State.resetOf acc).status = if acc then 0x0200#16 else 0x0000#16 := by
  cases acc <;> rfl

/-- Settles O34: one lemma per field, and the reset value in both instances. -/
theorem statusFields : Obligations.StatusFields :=
  ⟨fun s => ⟨status_busyBit s, status_doneBit s, status_errField s, status_inCountField s, status_accBit s,
      status_reservedField s⟩,
    status_resetOf false, status_resetOf true⟩

end Sys2Proof.Machine
end

section
/-! PROOF. The illegal words (30_encoding.md R74): which they are, how many, and what an accepted one does. -/

namespace Sys2Proof

/-! ### Which words are illegal -/

theorem six_le_opField_iff (w : CmdWord) : 0x06#8 ≤ opField w ↔ 0x0600 ≤ w.toNat := by
  rw [BitVec.le_def, opField_toNat]
  simp only [BitVec.toNat_ofNat]
  omega

theorem opField_ne_one_iff (w : CmdWord) : opField w ≠ 0x01#8 ↔ w.toNat / 256 ≠ 1 := by
  rw [← opField_toNat, ← BitVec.toNat_ne_iff_ne, BitVec.toNat_ofNat]

theorem argField_ne_zero_iff (w : CmdWord) : argField w ≠ 0x00#8 ↔ w.toNat % 256 ≠ 0 := by
  rw [← argField_toNat, ← BitVec.toNat_ne_iff_ne, BitVec.toNat_ofNat]

/-- Everything the decoder can answer, and when, in terms of the number of the word (R73, R74). -/
theorem decode_cases (w : CmdWord) :
    (0x0600 ≤ w.toNat ∧ decode w = .error .illegalOpcode) ∨
      ((w.toNat < 0x0600 ∧ w.toNat / 256 ≠ 1 ∧ w.toNat % 256 ≠ 0) ∧ decode w = .error .reservedOperand) ∨
      ((w.toNat < 0x0600 ∧ (w.toNat / 256 = 1 ∨ w.toNat % 256 = 0)) ∧ ∃ i, decode w = .ok i) := by
  simp only [decode, opField_ne_one_iff, argField_ne_zero_iff, six_le_opField_iff]
  by_cases opcode : 0x0600 ≤ w.toNat
  · exact .inl ⟨opcode, if_pos opcode⟩
  by_cases operand : w.toNat / 256 ≠ 1 ∧ w.toNat % 256 ≠ 0
  · exact .inr (.inl ⟨⟨by omega, operand⟩, by rw [if_neg opcode, if_pos operand]⟩)
  · refine .inr (.inr ⟨by omega, ?_⟩)
    rw [if_neg opcode, if_neg operand]
    split_ifs <;> exact ⟨_, rfl⟩

/-- R74: when the decoder gives each of its answers. -/
theorem decode_iff (w : CmdWord) :
    (decode w = .error .illegalOpcode ↔ 0x0600 ≤ w.toNat) ∧
    (decode w = .error .reservedOperand ↔ w.toNat < 0x0600 ∧ w.toNat / 256 ≠ 1 ∧ w.toNat % 256 ≠ 0) ∧
    ((∃ i, decode w = .ok i) ↔ w.toNat < 0x0600 ∧ (w.toNat / 256 = 1 ∨ w.toNat % 256 = 0)) := by
  rcases decode_cases w with ⟨number, answer⟩ | ⟨number, answer⟩ | ⟨number, i, answer⟩
  · simp [answer]; omega
  · simp [answer]; omega
  · simp [answer]; omega

/-! ### How many words are legal -/

/-- Counting below `n * k` in `k` blocks of `n`. -/
theorem countP_range_mul (p : Nat → Bool) (n k : Nat) :
    (List.range (n * k)).countP p = ((List.range k).map fun o => (List.range n).countP fun a => p (n * o + a)).sum := by
  induction k with
  | zero => simp
  | succ k ih => simp [Nat.mul_succ, List.range_add, List.range_succ, List.countP_map, Function.comp_def, ih]

/-- The number `n` is that of a command word. -/
def isCommandNumber (n : Nat) : Bool := (decode (BitVec.ofNat 16 n)).toOption.isSome

theorem isCommandNumber_fields {o a : Nat} (ho : o < 256) (ha : a < 256) :
    isCommandNumber (256 * o + a) = (decide (o < 6) && (decide (o = 1) || a == 0)) := by
  have number : (BitVec.ofNat 16 (256 * o + a)).toNat = 256 * o + a := by
    rw [BitVec.toNat_ofNat]; omega
  obtain ⟨-, -, legal⟩ := decode_iff (BitVec.ofNat 16 (256 * o + a))
  rw [number] at legal
  rw [Bool.eq_iff_iff, isCommandNumber]
  simp only [Bool.and_eq_true, Bool.or_eq_true, decide_eq_true_iff, beq_iff_eq]
  trans ∃ i, decode (BitVec.ofNat 16 (256 * o + a)) = .ok i
  · cases decode (BitVec.ofNat 16 (256 * o + a)) <;> simp [Except.toOption]
  · rw [legal]; omega

/-- The number of legal operands of each opcode, the `arg` column of R72. -/
def legalOperands (o : Nat) : Nat := if o = 1 then 256 else if o < 6 then 1 else 0

theorem countP_isCommandNumber {o : Nat} (ho : o < 256) :
    ((List.range 256).countP fun a => isCommandNumber (256 * o + a)) = legalOperands o := by
  rw [List.countP_congr fun a ha => by rw [isCommandNumber_fields ho (List.mem_range.mp ha)], legalOperands]
  split_ifs with writeByte legal
  · simp [writeByte]
  · simp only [writeByte, legal, decide_true, decide_false, Bool.true_and, Bool.false_or]
    exact List.count_eq_one_of_mem List.nodup_range (by simp)
  · simp [legal]

/-- R74: 1 + 256 + 1 + 1 + 1 + 1 words are legal. -/
theorem commandNumbers_count : (List.range 65536).countP isCommandNumber = 261 := by
  calc (List.range 65536).countP isCommandNumber
      = ((List.range 256).map legalOperands).sum := by
        rw [show (65536 : Nat) = 256 * 256 by norm_num, countP_range_mul]
        exact congrArg List.sum <| List.map_congr_left fun o ho => countP_isCommandNumber (List.mem_range.mp ho)
    _ = 261 := by decide +kernel

theorem illegalNumbers_count : (List.range 65536).countP (fun n => !isCommandNumber n) = 65275 := by
  have total := List.length_eq_countP_add_countP isCommandNumber (l := List.range 65536)
  simp only [commandNumbers_count, List.length_range, Bool.not_eq_true, Bool.decide_eq_false] at total
  omega

end Sys2Proof

namespace Sys2Proof.Machine

/-! ### What an accepted illegal word does -/

/-- An accepted word that is no command (R208). -/
theorem accept_of_not_ok {w : CmdWord} (h : ∀ i, decode w ≠ .ok i) (s : State) :
    accept w s = .next (raise .illegalCommand s) := by
  unfold accept
  split
  · next i hi => exact absurd hi (h i)
  · rfl

theorem step_of_not_ok {s : State} {w : CmdWord} {rest : List PortIn} (hf : s.fsm = .idle)
    (hp : s.ports = .offer w :: rest) (h : ∀ i, decode w ≠ .ok i) :
    step s = .next { s with err := .illegalCommand, ports := rest } := by
  rw [step_cons hp, edge_of_offer (by exact hf), accept_of_not_ok h]
  rfl

/-- Settles O3: from the cases of the decoder, the count of legal operands opcode by opcode, and the accepting edge. -/
theorem illegalWordsExactly : Obligations.IllegalWordsExactly :=
  ⟨decode_iff,
    by rw [← List.countP_eq_length_filter]; exact commandNumbers_count,
    by simp only [← List.countP_eq_length_filter, ← Option.not_isSome]; exact illegalNumbers_count,
    fun _ _ _ => step_of_not_ok⟩

end Sys2Proof.Machine
end

section
/-! PROOF. The block builder (41_block_builder.md R100, R102) and the load edge of START (45_commands.md R203). -/

namespace Sys2Proof.Machine

/-! ### The decoded words (R100) -/

/-- R100: the first byte of a word counts most. -/
theorem wordOfBytes_toNat (b0 b1 b2 b3 : Byte) :
    (wordOfBytes b0 b1 b2 b3).toNat = b0.toNat * 2 ^ 24 + b1.toNat * 2 ^ 16 + b2.toNat * 2 ^ 8 + b3.toNat := by
  simp only [wordOfBytes, toNat_append_eq_mul_add]
  ring

/-- R100: decoded word `i` is built of the bytes at `4i` to `4i + 3`. -/
theorem beDecode_get (x : Vector Byte 20) (i : Fin 5) :
    (beDecode x)[i.val] = wordOfBytes x[4 * i.val] x[4 * i.val + 1] x[4 * i.val + 2] x[4 * i.val + 3] := by
  fin_cases i <;> rfl

/-- Settles O25: the place of the four bytes of each word, and the number four bytes make. -/
theorem decodedWordIsBigEndian : Obligations.DecodedWordIsBigEndian := fun x i => by
  rw [beDecode_get, wordOfBytes_toNat]

/-! ### The words of the block (R102) -/

/-- R102: the block begins with the five input words. -/
theorem block_inputWord (m : Vector Word 5) (i : Fin 5) : (block m)[i.val] = m[i.val] := by
  fin_cases i <;> rfl

/-- R102: the nine words between the padding word and the length word are zero. -/
theorem block_zeroWord (m : Vector Word 5) (i : Fin 9) : (block m)[6 + i.val] = 0 := by
  fin_cases i <;> rfl

/-- Settles O26: the four parts of the block. -/
theorem blockWords : Obligations.BlockWords := fun m =>
  ⟨block_inputWord m, rfl, block_zeroWord m, rfl⟩

/-! ### The load edge (R203, R104, R140) -/

/-- R140: each word of the seed, in both modes. -/
theorem seed_get (s : State) (i : Nat) (hi : i < 5) : s.seed[i] = if s.accumulate then s.h[i] else iv[i] := by
  unfold State.seed seedOf
  split <;> rfl

/-- R32: BUSY is raised while a transform runs. -/
theorem busy_of_run {s : State} (hf : s.fsm = .run) : s.busy = true := by
  simp [State.busy, hf]

/-- R34: no command is accepted while a transform runs. -/
theorem cmdReady_of_run {s : State} (hf : s.fsm = .run) : s.cmdReady = false := by
  rw [cmdReady_eq_not_busy, busy_of_run hf, Bool.not_true]

/-- R203: START with twenty bytes is the load edge. -/
theorem exec_start_of_twenty {s : State} (hc : s.inCount = 20#5) : exec .start s = .next (loadTransform s) :=
  execStart_of_twenty hc

/-- Settles O18: the state after START is that of the load edge; `seed_get` gives its working registers, and the laws of
`loadTransform` every other field. -/
theorem startLoadsTransform : Obligations.StartLoadsTransform := fun s hc =>
  have hf := loadTransform_fsm s
  ⟨loadTransform s, exec_start_of_twenty hc, rfl, loadTransform_wr s,
    seed_get s 0 _, seed_get s 1 _, seed_get s 2 _, seed_get s 3 _, seed_get s 4 _,
    loadTransform_t s, hf, loadTransform_done s, busy_of_run hf, cmdReady_of_run hf,
    loadTransform_accumulate s, loadTransform_h s, loadTransform_ibuf s, loadTransform_inCount s, loadTransform_err s,
    loadTransform_ports s⟩

end Sys2Proof.Machine
end

section
/-! PROOF. The 80-word array (42_message_schedule.md): the block (R120), then the recurrence (R121). -/

namespace Sys2Proof.Machine

/-- R120: the first sixteen words are the block. -/
theorem schedule_block (b : Vector Word 16) (i : Fin 16) : schedule b i.val = b[i.val] := by
  rw [schedule_of_prefix b 0 i.val (by omega) (by omega)]
  simp [scheduleUpTo]

/-- R121: each later word is made of those at offsets 3, 8, 14 and 16 back. Those four stand already in the array
that the new word extends. -/
theorem schedule_recurrence (b : Vector Word 16) (n : Nat) (hn : n < 64) :
    schedule b (n + 16) =
      scheduleWord (schedule b (n + 13)) (schedule b (n + 8)) (schedule b (n + 2)) (schedule b n) := by
  have older : ∀ i, i < n + 16 → schedule b i = (scheduleUpTo b n).getD i 0 := fun i hi =>
    schedule_of_prefix b n i (by omega) hi
  rw [schedule_of_prefix b (n + 1) (n + 16) (by omega) (by omega), scheduleUpTo_newest,
    older (n + 13) (by omega), older (n + 8) (by omega), older (n + 2) (by omega), older n (by omega)]

/-- Settles O27: the block, and the recurrence with each index counted from the oldest of its words. -/
theorem scheduleRecurrence : Obligations.ScheduleRecurrence := fun b => by
  refine ⟨schedule_block b, fun i h16 h80 => ?_⟩
  obtain ⟨n, rfl⟩ := Nat.exists_eq_add_of_le' h16
  change schedule b (n + 16) =
    (schedule b (n + 13) ^^^ schedule b (n + 8) ^^^ schedule b (n + 2) ^^^ schedule b n).rotateLeft 1
  rw [schedule_recurrence b n (by omega), scheduleWord, rotl_eq_rotateLeft _ 1 (by decide)]

end Sys2Proof.Machine
end

section
/-! PROOF. The round pipeline (43_round_pipeline.md): the phase select (R141), the round functions bit by bit (R142, R143,
R144) and the arithmetic of the round's sum (R148). -/

namespace Sys2Proof.Machine

/-! ### The phase select (R141) -/

/-- R141: each arm of the 2-bit select answers for the twenty rounds of its phase. -/
theorem phase_val (t : Nat) (ht : t < 80) : (phase t).val = t / 20 := by
  unfold phase
  split_ifs with h60 h40 h20
  · change 3 = t / 20; omega
  · change 2 = t / 20; omega
  · change 1 = t / 20; omega
  · change 0 = t / 20; omega

/-- Settles O29: the select is the floor. -/
theorem phaseIsFloor : Obligations.PhaseIsFloor := phase_val

/-! ### The round functions, bit by bit (R142, R143, R144) -/

/-- R142: bit `i` of F1 is chosen from `c` or `d` by bit `i` of `b`. -/
theorem f1_getLsbD (b c d : Word) (i : Nat) (hi : i < 32) :
    (f1 b c d).getLsbD i = if b.getLsbD i then c.getLsbD i else d.getLsbD i := by
  simp only [f1, BitVec.getLsbD_or, BitVec.getLsbD_and, BitVec.getLsbD_not, hi, decide_true, Bool.true_and]
  cases b.getLsbD i
  case false => simp
  case true => simp

/-- The exclusive or of three bits is 1 when an odd number of them are. -/
theorem xor_xor_eq_odd_count : ∀ x y z : Bool,
    (x ^^ y ^^ z) = decide ((x.toNat + y.toNat + z.toNat) % 2 = 1) := by decide

/-- The or of the three pairwise ands is 1 when at least two of the bits are. -/
theorem pairwise_and_eq_majority : ∀ x y z : Bool,
    (x && y || x && z || y && z) = decide (2 ≤ x.toNat + y.toNat + z.toNat) := by decide

/-- R143: bit `i` of F2 is the parity of the three bits at `i`. -/
theorem f2_getLsbD (b c d : Word) (i : Nat) :
    (f2 b c d).getLsbD i =
      decide (((b.getLsbD i).toNat + (c.getLsbD i).toNat + (d.getLsbD i).toNat) % 2 = 1) := by
  rw [← xor_xor_eq_odd_count, f2, BitVec.getLsbD_xor, BitVec.getLsbD_xor]

/-- R144: bit `i` of F3 is the majority of the three bits at `i`. -/
theorem f3_getLsbD (b c d : Word) (i : Nat) :
    (f3 b c d).getLsbD i = decide (2 ≤ (b.getLsbD i).toNat + (c.getLsbD i).toNat + (d.getLsbD i).toNat) := by
  simp only [← pairwise_and_eq_majority, f3, BitVec.getLsbD_or, BitVec.getLsbD_and]

/-- Settles O30: one lemma per round function. -/
theorem roundFunctionsBitwise : Obligations.RoundFunctionsBitwise := fun b c d i hi =>
  ⟨f1_getLsbD b c d i hi, f2_getLsbD b c d i, f3_getLsbD b c d i⟩

/-! ### The round's sum (R148) -/

/-- R148: the carries dropped by each of the four additions are dropped by one reduction at the end. -/
theorem roundTemp_toNat (p : Fin 4) (w : Word) (v : Working) :
    (roundTemp p w v).toNat =
      ((rotl v.a 5).toNat + (roundFunction p v.b v.c v.d).toNat + v.e.toNat + w.toNat + (roundConstant p).toNat) %
        2 ^ 32 := by
  simp only [roundTemp, BitVec.toNat_add, Nat.mod_add_mod]

/-- Settles O31: the sum as a natural number, reduced once. -/
theorem roundSumIsModular : Obligations.RoundSumIsModular := roundTemp_toNat

end Sys2Proof.Machine
end

section
/-! PROOF. The FIN edge, the finalize step (44_digest_encoder.md R171, 45_commands.md R192). -/

namespace Sys2Proof.Machine

/-- A FIN edge on explicit ports (R192). -/
theorem step_of_fin {s : State} {p : PortIn} {rest : List PortIn} (hf : s.fsm = .fin) (hp : s.ports = p :: rest)
    (hr : p.rst = false) : step s = .next (finEdge { s with ports := rest }) := by
  rw [step_cons hp, edge_of_fin hr (by exact hf)]

/-- R140: each word of the seed as a number. -/
theorem seed_get_toNat (s : State) (i : Nat) (hi : i < 5) :
    s.seed[i].toNat = if s.accumulate then s.h[i].toNat else iv[i].toNat := by
  rw [seed_get, apply_ite BitVec.toNat]

/-- R171: each word of `H` after the finalize step is one addition modulo 2^32 of its own. -/
theorem finEdge_h_toNat (s : State) :
    (finEdge s).h[0].toNat = (s.seed[0].toNat + s.work.a.toNat) % 2 ^ 32 ∧
    (finEdge s).h[1].toNat = (s.seed[1].toNat + s.work.b.toNat) % 2 ^ 32 ∧
    (finEdge s).h[2].toNat = (s.seed[2].toNat + s.work.c.toNat) % 2 ^ 32 ∧
    (finEdge s).h[3].toNat = (s.seed[3].toNat + s.work.d.toNat) % 2 ^ 32 ∧
    (finEdge s).h[4].toNat = (s.seed[4].toNat + s.work.e.toNat) % 2 ^ 32 :=
  ⟨BitVec.toNat_add _ _, BitVec.toNat_add _ _, BitVec.toNat_add _ _, BitVec.toNat_add _ _, BitVec.toNat_add _ _⟩

/-- Settles O23: the step is the finalize step, its five sums start from the seed's words, and the laws of `finEdge` give the
other fields. -/
theorem finEdgeAddsIntoHash : Obligations.FinEdgeAddsIntoHash := fun s p rest hf hp hr => by
  let u := { s with ports := rest }
  obtain ⟨h0, h1, h2, h3, h4⟩ := finEdge_h_toNat u
  rw [seed_get_toNat] at h0 h1 h2 h3 h4
  exact ⟨finEdge u, step_of_fin hf hp hr, h0, h1, h2, h3, h4,
    finEdge_done u, finEdge_fsm u, finEdge_accumulate u, finEdge_work u, finEdge_wr u, finEdge_t u, finEdge_ibuf u,
    finEdge_inCount u, finEdge_err u, finEdge_ports u⟩

end Sys2Proof.Machine
end

section
/-! PROOF. A transform in flight: the core after the first `n` of the 80 rounds (43_round_pipeline.md R150,
42_message_schedule.md R124, 45_commands.md R191). -/

namespace Sys2Proof.Machine

/-- R124: the window holds the schedule from `t` on, as far as the schedule goes. -/
theorem windowAfter_get (b : Vector Word 16) (t : Nat) :
    ∀ j : Fin 16, t + j.val ≤ 79 → (windowAfter b t)[j.val] = schedule b (t + j.val) := by
  induction t with
  | zero => intro j _; rw [Nat.zero_add, schedule_block]; rfl
  | succ t ih => exact windowShift_tracks _ t _ (schedule_recurrence b) ih

/-- What `runEdges_start_rounds` finds `n` RUN edges after the load edge of a transform begun in `s`, for `n` up to 80: the
working registers and the window of `n` rounds, `t` at the next round, and FIN once all 80 are done. -/
def State.afterRounds (s : State) (n : Nat) : State :=
  { loadTransform s with
    work := roundsUpTo s.inputSchedule (Working.ofWords s.seed) n
    wr := windowAfter (inputBlock s.ibuf) n
    t := BitVec.ofNat 7 (n % 80)
    fsm := if n = 80 then .fin else .run }

/-- Before the first round stands the load edge (R203). -/
theorem afterRounds_zero (s : State) : s.afterRounds 0 = loadTransform s := rfl

@[simp] theorem afterRounds_ports (s : State) (n : Nat) : (s.afterRounds n).ports = s.ports := rfl

/-- The ports at the coming edges play no part in the rounds. -/
theorem afterRounds_withPorts (s : State) (n : Nat) (ps : List PortIn) :
    { s.afterRounds n with ports := ps } = { s with ports := ps }.afterRounds n := rfl

theorem afterRounds_t (s : State) (n : Nat) : (s.afterRounds n).t = BitVec.ofNat 7 (n % 80) := rfl

theorem afterRounds_fsm (s : State) (n : Nat) : (s.afterRounds n).fsm = if n = 80 then .fin else .run := rfl

theorem afterRounds_fsm_run (s : State) {n : Nat} (hn : n < 80) : (s.afterRounds n).fsm = .run := by
  rw [afterRounds_fsm, if_neg (by omega)]

theorem afterRounds_fsm_fin (s : State) : (s.afterRounds 80).fsm = .fin := by
  rw [afterRounds_fsm, if_pos rfl]

theorem afterRounds_t_toNat (s : State) (n : Nat) : (s.afterRounds n).t.toNat = n % 80 := by
  rw [afterRounds_t, BitVec.toNat_ofNat]
  omega

/-- R124: the word at the head of the window is the one round `n` needs. -/
theorem afterRounds_wr_head (s : State) {n : Nat} (hn : n < 80) : (s.afterRounds n).wr[0] = s.inputSchedule n :=
  windowAfter_get (inputBlock s.ibuf) n 0 (Nat.le_of_lt_succ hn)

/-- R191: a RUN edge does one more round. -/
theorem runEdge_afterRounds (s : State) {n : Nat} (hn : n < 80) :
    runEdge (s.afterRounds n) = s.afterRounds (n + 1) := by
  have ht : (s.afterRounds n).t.toNat = n := by rw [afterRounds_t_toNat, Nat.mod_eq_of_lt hn]
  have hwork : (runEdge (s.afterRounds n)).work = (s.afterRounds (n + 1)).work := by
    rw [runEdge_work, ht, afterRounds_wr_head s hn]
    rfl
  have hnext : (runEdge (s.afterRounds n)).t = (s.afterRounds (n + 1)).t := by
    apply BitVec.eq_of_toNat_eq
    rw [runEdge_t, nextRound_toNat (by omega), ht, afterRounds_t_toNat]
    split
    · omega
    · omega
  have hfsm : (runEdge (s.afterRounds n)).fsm = (s.afterRounds (n + 1)).fsm := by
    rw [runEdge_fsm, nextFsm_eq, ht]
    exact if_congr (by omega) rfl rfl
  exact State.ext rfl rfl hwork rfl hnext hfsm rfl rfl rfl rfl rfl

/-- An edge in flight without a reset does one more round, whatever is on the command port (R193). -/
theorem step_afterRounds {s : State} {p : PortIn} {rest : List PortIn} {n : Nat} (hn : n < 80)
    (hp : s.ports = p :: rest) (hr : p.rst = false) :
    step (s.afterRounds n) = .next ({ s with ports := rest }.afterRounds (n + 1)) := by
  rw [step_cons ((afterRounds_ports s n).trans hp), afterRounds_withPorts,
    edge_of_run hr (afterRounds_fsm_run _ hn), runEdge_afterRounds _ hn]

/-- As many edges in flight do as many rounds, up to the 80th. -/
theorem runEdges_afterRounds {held rest : List PortIn} {s : State} {n : Nat} (hn : n + held.length ≤ 80)
    (hr : ∀ p ∈ held, p.rst = false) (hp : s.ports = held ++ rest) :
    runEdges held.length (s.afterRounds n) = .next ({ s with ports := rest }.afterRounds (n + held.length)) := by
  induction held generalizing s n with
  | nil => cases s; cases hp; rfl
  | cons p held ih =>
    obtain ⟨hp0, hheld⟩ := List.forall_mem_cons.mp hr
    rw [List.length_cons] at hn ⊢
    rw [runEdges_succ _ (step_afterRounds (by omega) hp hp0), ih (by omega) hheld rfl,
      Nat.add_right_comm, Nat.add_assoc]

/-- R190, R203: the edge that accepts a START with twenty bytes is the load edge. -/
theorem step_start {s : State} {rest : List PortIn} (hf : s.fsm = .idle) (hc : s.inCount = 20#5)
    (hp : s.ports = .offer 0x0300#16 :: rest) :
    step s = .next ({ s with ports := rest }.afterRounds 0) := by
  rw [step_cons hp, edge_of_offer (by exact hf), accept_start, execStart_of_twenty (by exact hc), afterRounds_zero]

/-- R203, R191, R193: the core after an accepted START and the edges `held`, at most 80, with no reset among them. -/
theorem runEdges_start_rounds {s : State} {held rest : List PortIn} (hf : s.fsm = .idle) (hc : s.inCount = 20#5)
    (hlen : held.length ≤ 80) (hr : ∀ p ∈ held, p.rst = false) (hp : s.ports = .offer 0x0300#16 :: held ++ rest) :
    runEdges (held.length + 1) s = .next ({ s with ports := rest }.afterRounds held.length) := by
  rw [runEdges_succ _ (step_start hf hc hp), runEdges_afterRounds (by omega) hr rfl, Nat.zero_add]

end Sys2Proof.Machine
end

section
/-! PROOF. A START through its FIN edge is the transform as a function (44_digest_encoder.md R175, 45_commands.md R204). -/

namespace Sys2Proof.Machine

/-- What the finalize step would leave after `n` rounds (R171). -/
theorem finEdge_afterRounds (s : State) (n : Nat) :
    finEdge (s.afterRounds n) =
      { s with
        h := addWorking s.seed (roundsUpTo s.inputSchedule (Working.ofWords s.seed) n)
        work := roundsUpTo s.inputSchedule (Working.ofWords s.seed) n
        wr := windowAfter (inputBlock s.ibuf) n
        t := BitVec.ofNat 7 (n % 80)
        fsm := .idle
        done := true } := rfl

/-- R204, R175: after all 80 rounds it leaves the transform's whole effect. -/
theorem finEdge_afterRounds_eighty (s : State) : finEdge (s.afterRounds 80) = wholeTransform s := by
  rw [finEdge_afterRounds, wholeTransform, transformHash, rounds_eq, rounds_eq, Nat.mod_self]
  rfl

/-- The FIN edge of a transform, whatever is on the command port (R192, R193). -/
theorem step_afterRounds_fin {s : State} {p : PortIn} {rest : List PortIn} (hp : s.ports = p :: rest)
    (hr : p.rst = false) : step (s.afterRounds 80) = .next (wholeTransform { s with ports := rest }) := by
  rw [step_of_fin (afterRounds_fsm_fin s) ((afterRounds_ports s 80).trans hp) hr, afterRounds_withPorts,
    finEdge_afterRounds_eighty]

/-- R204, R275: the 82 edges of a START, with anything but a reset on the ports, are the transform's whole effect. -/
theorem runEdges_start {s : State} {held rest : List PortIn} (hf : s.fsm = .idle) (hc : s.inCount = 20#5)
    (hlen : held.length = 81) (hr : ∀ p ∈ held, p.rst = false) (hp : s.ports = .offer 0x0300#16 :: held ++ rest) :
    runEdges 82 s = .next (wholeTransform { s with ports := rest }) := by
  obtain ⟨roundEdges, finPorts, rfl⟩ : ∃ roundEdges finPorts, held = roundEdges ++ [finPorts] :=
    (List.eq_nil_or_concat' held).resolve_left (by rintro rfl; cases hlen)
  obtain ⟨hrounds, hfin⟩ := List.forall_mem_append.mp hr
  have hlen80 : roundEdges.length = 80 := by simpa using hlen
  have hrun := runEdges_start_rounds (rest := finPorts :: rest) hf hc hlen80.le hrounds (by simpa using hp)
  rw [hlen80] at hrun
  have hfinPorts : finPorts.rst = false := hfin _ (List.mem_singleton_self _)
  rw [runEdges_add 1 hrun, runEdges_succ 0 (step_afterRounds_fin rfl hfinPorts), runEdges_zero]

/-- Settles O47: the 82 edges are the transform's whole effect, and `dout` encodes the digest it leaves in `H`. -/
theorem transformRefinesFunction : Obligations.TransformRefinesFunction := fun s _ rest hf hc hlen hr hp =>
  ⟨wholeTransform { s with ports := rest }, runEdges_start hf hc hlen hr hp, rfl,
    dout_byte (wholeTransform { s with ports := rest }), rfl, rfl, rfl, rfl, rfl, rfl, rfl⟩

end Sys2Proof.Machine
end

section
/-! PROOF. The commands that only write fields (45_commands.md R200 to R202, R206, R207): each completes, with its one
operation as its whole effect. -/

namespace Sys2Proof.Machine

/-! ### Each command as its operation -/

/-- R200. -/
@[simp] theorem exec_nop (s : State) : exec .nop s = .next s := rfl

/-- R201. -/
@[simp] theorem exec_writeByte (x : Byte) (s : State) : exec (.writeByte x) s = .next (appendByte x s) := rfl

/-- R202. -/
@[simp] theorem exec_clearInput (s : State) : exec .clearInput s = .next (clearCount s) := rfl

/-- R206. -/
@[simp] theorem exec_resetState (s : State) : exec .resetState s = .next (reloadHash s) := rfl

/-- R207. -/
@[simp] theorem exec_clearStatus (s : State) : exec .clearStatus s = .next (clearFlags s) := rfl

/-! ### The statements -/

/-- Settles O16: the byte is stored and counted by the laws of `storeByte` and `nextCount`, and the laws of `appendByte`
are the frame. -/
theorem writeByteAppends : Obligations.WriteByteAppends := fun x s =>
  ⟨appendByte x s, exec_writeByte x s, encode_writeByte x,
    fun j => storeByte_get s.ibuf s.inCount x j.val j.isLt, nextCount_toNat s.inCount,
    appendByte_accumulate x s, appendByte_h x s, appendByte_work x s, appendByte_wr x s, appendByte_t x s,
    appendByte_fsm x s, appendByte_done x s, appendByte_err x s, appendByte_ports x s⟩

/-- Settles O15: NOP answers the state it is given. -/
theorem nopChangesNothing : Obligations.NopChangesNothing := fun s => ⟨exec_nop s, rfl⟩

/-- Settles O17: `clearCount` is the update of the one field. -/
theorem clearInputZeroesCount : Obligations.ClearInputZeroesCount := fun s => ⟨exec_clearInput s, rfl⟩

/-- Settles O20: `reloadHash` is the update of `H` and DONE, and `dout` shows the `IV` it leaves. -/
theorem resetStateReloadsHash : Obligations.ResetStateReloadsHash := fun s =>
  ⟨reloadHash s, exec_resetState s, rfl, rfl, dout_of_iv (reloadHash_h s)⟩

/-- Settles O21: `clearFlags` is the update of ERR and DONE. -/
theorem clearStatusClearsFlags : Obligations.ClearStatusClearsFlags := fun s => ⟨exec_clearStatus s, rfl, rfl⟩

end Sys2Proof.Machine
end

section
/-! PROOF. IDLE edges that run no command (45_commands.md R194, R208): nothing offered, or an illegal word. -/

namespace Sys2Proof.Machine

/-- An edge in IDLE with nothing offered (R194). -/
theorem edge_of_idle {p : PortIn} (hr : p.rst = false) (hv : p.cmdValid = false) {s : State} (hf : s.fsm = .idle) :
    edge p s = .next s := by simp [edge, hr, hv, hf]

/-- Such an edge on explicit ports. -/
theorem step_of_idle {s : State} {p : PortIn} {rest : List PortIn} (hf : s.fsm = .idle) (hp : s.ports = p :: rest)
    (hr : p.rst = false) (hv : p.cmdValid = false) : step s = .next { s with ports := rest } := by
  rw [step_cons hp, edge_of_idle hr hv (by exact hf)]

/-- Settles O9, by induction on the edges: each takes its own ports off the list and leaves the core in IDLE. -/
theorem idleEdgesHold : Obligations.IdleEdgesHold := fun s quiet rest hf hquiet hp => by
  induction quiet generalizing s with
  | nil => cases s; cases hp; rfl
  | cons p quiet ih =>
    obtain ⟨⟨hr, hv⟩, hquiet⟩ := List.forall_mem_cons.mp hquiet
    rw [List.length_cons, runEdges_succ _ (step_of_idle hf hp hr hv)]
    exact ih _ hf hquiet rfl

/-- R74: a word with an illegal number is no command. -/
theorem decode_ne_ok_of_illegal {w : CmdWord} (h : 0x0600 ≤ w.toNat ∨ (w.toNat / 256 ≠ 1 ∧ w.toNat % 256 ≠ 0))
    (i : Instr) : decode w ≠ .ok i := fun hi => by
  obtain ⟨-, -, legal⟩ := decode_iff w
  have := legal.mp ⟨i, hi⟩
  omega

/-- Settles O8: the number makes the word no command, and that is an edge which only raises ILLEGAL_COMMAND. -/
theorem illegalWordSetsErrOnly : Obligations.IllegalWordSetsErrOnly := fun _ _ _ hf hp h =>
  ⟨step_of_not_ok hf hp (decode_ne_ok_of_illegal h), rfl⟩

end Sys2Proof.Machine
end

section
/-! PROOF. The RUN edge (45_commands.md R191): one round (43_round_pipeline.md R145, R146), one shift of the window
(42_message_schedule.md R123), one advance of the sequencer. -/

namespace Sys2Proof.Machine

/-- A RUN edge on explicit ports (R191). -/
theorem step_of_run {s : State} {p : PortIn} {rest : List PortIn} (hf : s.fsm = .run) (hp : s.ports = p :: rest)
    (hr : p.rst = false) : step s = .next (runEdge { s with ports := rest }) := by
  rw [step_cons hp, edge_of_run hr (by exact hf)]

/-- R141: the twenty rounds of phase `p`. -/
theorem phase_eq {t : Nat} (p : Fin 4) (hlo : 20 * p.val ≤ t) (hhi : t < 20 * p.val + 20) : phase t = p := by
  apply Fin.ext
  rw [phase_val t (by omega)]
  omega

/-- R146: the register `a` after a round, with the round's multiplexers left as they are. -/
theorem roundStep_a (p : Fin 4) (w : Word) (v : Working) :
    (roundStep p w v).a = v.a.rotateLeft 5 + roundFunction p v.b v.c v.d + v.e + w + roundConstant p := by
  rw [← rotl_eq_rotateLeft v.a 5 (by decide)]
  rfl

/-- R146: the register `c` after a round. -/
theorem roundStep_c (p : Fin 4) (w : Word) (v : Working) : (roundStep p w v).c = v.b.rotateLeft 30 :=
  rotl_eq_rotateLeft v.b 30 (by decide)

/-- R123: the word that enters the window. -/
theorem windowShift_newest (wr : Vector Word 16) :
    (windowShift wr)[15] = (wr[13] ^^^ wr[8] ^^^ wr[2] ^^^ wr[0]).rotateLeft 1 := by
  rw [windowShift_last, scheduleWord, rotl_eq_rotateLeft _ 1 (by decide)]

/-- Settles O22: the step is the RUN edge; `f` and `k` are what the multiplexers of R145 select in the phase of the round
(`phase_eq`), and the laws of `runEdge` give the other fields. -/
theorem runEdgeDoesOneRound : Obligations.RunEdgeDoesOneRound := fun s p rest hf ht hp hr => by
  let u := { s with ports := rest }
  refine ⟨runEdge u, roundFunction (phase s.t.toNat) s.work.b s.work.c s.work.d, roundConstant (phase s.t.toNat),
    step_of_run hf hp hr, fun hhi => ?_, fun hlo hhi => ?_, fun hlo hhi => ?_, fun hlo => ?_,
    roundStep_a _ _ _, rfl, roundStep_c _ _ _, rfl, rfl,
    fun j => windowShift_get s.wr j.val j.isLt, windowShift_newest s.wr,
    nextRound_toNat (Nat.le_of_lt_succ ht), nextFsm_eq s.t,
    runEdge_accumulate u, runEdge_h u, runEdge_ibuf u, runEdge_inCount u, runEdge_done u, runEdge_err u,
    runEdge_ports u⟩
  · rw [phase_eq 0 (Nat.zero_le _) hhi]
    exact ⟨rfl, rfl⟩
  · rw [phase_eq 1 hlo hhi]
    exact ⟨rfl, rfl⟩
  · rw [phase_eq 2 hlo hhi]
    exact ⟨rfl, rfl⟩
  · rw [phase_eq 3 hlo ht]
    exact ⟨rfl, rfl⟩

end Sys2Proof.Machine
end

section
/-! PROOF. START without its twenty bytes (45_commands.md R203, 60_exceptions.md R232): it completes, and raising the error
is its whole effect. -/

namespace Sys2Proof.Machine

/-- R203: START with any count but twenty only raises INVALID_INPUT_LENGTH. -/
theorem exec_start_of_other {s : State} (hc : s.inCount ≠ 20#5) :
    exec .start s = .next (raise .invalidInputLength s) :=
  execStart_of_other hc

/-- Settles O19: `raise` is the update of ERR alone, and the code of the error is read off its table. -/
theorem startRejectsWrongLength : Obligations.StartRejectsWrongLength := fun _ hc => ⟨exec_start_of_other hc, rfl⟩

end Sys2Proof.Machine
end

section
/-! PROOF. Reset edges (70_reset_and_hazards.md R260, R261, R264): one of them forgets the state, and more change nothing. -/

namespace Sys2Proof.Machine

/-- A reset edge on explicit ports (R260). -/
theorem step_of_rst {s : State} {p : PortIn} {rest : List PortIn} (hp : s.ports = p :: rest) (hr : p.rst = true) :
    step s = .next (resetStep { s with ports := rest }) := by
  rw [step_cons hp, edge_of_rst hr]

/-- R264: one or more reset edges are one reset step, from any state. -/
theorem runEdges_resets {s : State} {p : PortIn} {ps rest : List PortIn} (hr : ∀ q ∈ p :: ps, q.rst = true)
    (hp : s.ports = p :: ps ++ rest) :
    runEdges (ps.length + 1) s = .next (resetStep { s with ports := rest }) := by
  induction ps generalizing s p with
  | nil => rw [List.length_nil, runEdges_succ 0 (step_of_rst hp (hr p List.mem_cons_self)), runEdges_zero]; rfl
  | cons q ps ih =>
    obtain ⟨hr, hrs⟩ := List.forall_mem_cons.mp hr
    rw [List.length_cons, runEdges_succ _ (step_of_rst hp hr), ih hrs rfl]
    rfl

/-- R33, R261: STATUS after a reset edge. -/
theorem resetStep_status (s : State) : (resetStep s).status = if s.accumulate then 0x0200#16 else 0x0000#16 :=
  status_resetOf s.accumulate

/-- Settles O14: the edges are one reset step (`runEdges_resets`), and its laws give every state element and output. The
window and IBUF are vectors of equal entries, which `Vector.getElem_replicate` reads. -/
theorem resetEdgesFromAnyState : Obligations.ResetEdgesFromAnyState := fun s _ _ rest hr hp =>
  let u := { s with ports := rest }
  ⟨resetStep u, runEdges_resets hr hp, resetStep_h u, resetStep_work u,
    fun j => Vector.getElem_replicate (n := 16) j.isLt, resetStep_t u, resetStep_fsm u,
    fun j => Vector.getElem_replicate (n := 20) j.isLt, resetStep_inCount u, resetStep_done u, resetStep_err u,
    resetStep_accumulate u, resetStep_ports u, rfl, resetStep_status u, dout_of_iv (resetStep_h u)⟩

end Sys2Proof.Machine
end

section
/-! PROOF. The time a START takes (70_reset_and_hazards.md R272, R275): the core after each of its edges. -/

namespace Sys2Proof.Machine

/-- R32: the core is busy from the load edge to the end of the rounds. -/
theorem afterRounds_busy (s : State) (n : Nat) : (s.afterRounds n).busy = true := by
  rw [State.busy, afterRounds_fsm]
  split
  · rfl
  · rfl

/-- R34: so it is not ready. -/
theorem afterRounds_cmdReady (s : State) (n : Nat) : (s.afterRounds n).cmdReady = false := by
  rw [cmdReady_eq_not_busy, afterRounds_busy, Bool.not_true]

/-- R174: the rounds do not touch `H`, so `dout` holds. -/
theorem afterRounds_dout (s : State) (n : Nat) : (s.afterRounds n).dout = s.dout := dout_congr rfl

/-- R191, R193: `n` edges after the accepting one, `n` rounds are done, and the rest of the ports is still to come. -/
theorem runEdges_start_prefix {s : State} {held rest : List PortIn} {n : Nat} (hf : s.fsm = .idle)
    (hc : s.inCount = 20#5) (hn : n ≤ 80) (hlen : n ≤ held.length) (hr : ∀ p ∈ held, p.rst = false)
    (hp : s.ports = .offer 0x0300#16 :: held ++ rest) :
    runEdges (n + 1) s = .next ({ s with ports := held.drop n ++ rest }.afterRounds n) := by
  have htake : (held.take n).length = n := List.length_take_of_le hlen
  have hsplit : s.ports = .offer 0x0300#16 :: held.take n ++ (held.drop n ++ rest) := by
    rw [hp, List.cons_append, List.cons_append, ← List.append_assoc, List.take_append_drop]
  have hrun := runEdges_start_rounds hf hc (htake.le.trans hn) (fun p hmem => hr p (List.mem_of_mem_take hmem)) hsplit
  rwa [htake] at hrun

/-- Settles O48: edge `k` up to the 81st leaves `k - 1` rounds done, and the 82nd completes the transform. -/
theorem startOccupiesEightyTwoEdges : Obligations.StartOccupiesEightyTwoEdges := by
  intro s held rest hf hc hlen hr hp
  refine ⟨fun k hk hk81 => ?_, ?_⟩
  · obtain ⟨n, rfl⟩ := Nat.exists_eq_add_of_le' hk
    let before := { s with ports := held.drop n ++ rest }
    exact ⟨before.afterRounds n, runEdges_start_prefix hf hc (by omega) (by omega) hr hp,
      afterRounds_busy before n, afterRounds_cmdReady before n, rfl, afterRounds_dout before n,
      (afterRounds_fsm before n).trans (if_congr (by omega) rfl rfl), afterRounds_t_toNat before n⟩
  · let after := wholeTransform { s with ports := rest }
    exact ⟨after, runEdges_start hf hc hlen hr hp, rfl, rfl, rfl, rfl, dout_byte after⟩

end Sys2Proof.Machine
end

section
/-! PROOF. Decoding and encoding agree (30_encoding.md R72, R73), and so do the rows of the opcode table. -/

namespace Sys2Proof

/-! ### The decoder and the encoder -/

/-- R72, R73: the word of a command decodes to it; for WRITE_BYTE the operand is read back whatever it is. -/
@[simp] theorem decode_encode (i : Instr) : decode (encode i) = .ok i := by
  cases i with
  | writeByte x => simp [encode_writeByte, decode]
  | nop => rfl
  | clearInput => rfl
  | start => rfl
  | resetState => rfl
  | clearStatus => rfl

/-- The last opcode the decoder tells by exclusion. -/
theorem opField_eq_five {w : CmdWord} (hlegal : ¬ 0x06#8 ≤ opField w) (h0 : opField w ≠ 0x00#8) (h1 : opField w ≠ 0x01#8)
    (h2 : opField w ≠ 0x02#8) (h3 : opField w ≠ 0x03#8) (h4 : opField w ≠ 0x04#8) : opField w = 0x05#8 := by
  bv_omega

/-- R73: a word that decodes has the opcode and the operand byte of its command. -/
theorem fields_of_decode {w : CmdWord} {i : Instr} (h : decode w = .ok i) :
    opField w = i.opcode ∧ argField w = i.operandByte := by
  simp only [decode] at h
  split_ifs at h with illegal reserved h0 h1 h2 h3 h4
  all_goals cases h
  all_goals have operand : opField w ≠ 0x01#8 → argField w = 0x00#8 := fun hop => not_not.mp fun ha => reserved ⟨hop, ha⟩
  · exact ⟨h0, operand (by rw [h0]; decide)⟩
  · exact ⟨h1, rfl⟩
  · exact ⟨h2, operand h1⟩
  · exact ⟨h3, operand h1⟩
  · exact ⟨h4, operand h1⟩
  · exact ⟨opField_eq_five illegal h0 h1 h2 h3 h4, operand h1⟩

theorem encode_of_decode {w : CmdWord} {i : Instr} (h : decode w = .ok i) : encode i = w := by
  obtain ⟨hop, harg⟩ := fields_of_decode h
  rw [word_eq_fields w, hop, harg, encode]

/-- R72, R73: one word for each command. -/
theorem decode_eq_ok_iff {w : CmdWord} {i : Instr} : decode w = .ok i ↔ w = encode i :=
  ⟨fun h => (encode_of_decode h).symm, by rintro rfl; exact decode_encode i⟩

/-- Settles O2: decoding the two fields of an encoding, and encoding the two fields of a word that decodes. -/
theorem decodeEncodeAgree : Obligations.DecodeEncodeAgree := ⟨fun i _ => decode_encode i, fun _ _ => encode_of_decode⟩

/-- Settles O1: each word is written as the decoder reads it. -/
theorem writtenWordsDecode : Obligations.WrittenWordsDecode := ⟨rfl, rfl, rfl, rfl, rfl, rfl, rfl, rfl⟩

/-! ### The opcode table -/

/-- Every command's word is of exactly the rows with its mnemonic. -/
theorem tableRow (i : Instr) : Laws.TableRow.Statement i := by
  cases i with
  | nop => exact Laws.TableRow.nop
  | writeByte x => exact Laws.TableRow.writeByte x
  | clearInput => exact Laws.TableRow.clearInput
  | start => exact Laws.TableRow.start
  | resetState => exact Laws.TableRow.resetState
  | clearStatus => exact Laws.TableRow.clearStatus

theorem matchesWord_encode_iff {r : OpcodeRow} (hr : r ∈ opcodeTable) (i : Instr) :
    r.matchesWord (encode i) = true ↔ r.mnemonic = i.mnemonic := by
  have hmem : r ∈ opcodeTable.filter (fun r => r.matchesWord (encode i)) ↔
      r ∈ opcodeTable.filter fun r => r.mnemonic == i.mnemonic := by rw [tableRow i]
  simpa [hr] using hmem

/-- A row whose mask is full has its pattern as its one word. -/
theorem matchesWord_full_iff {name : String} {pattern w : CmdWord} :
    (OpcodeRow.mk name pattern 0xFFFF).matchesWord w = true ↔ w = pattern := by
  have hmask : w &&& 0xFFFF = w := BitVec.and_allOnes
  rw [OpcodeRow.matchesWord, hmask, beq_iff_eq]

/-- The row of WRITE_BYTE looks at the opcode only. -/
theorem opField_of_matchesWord_writeByte {w : CmdWord}
    (h : (OpcodeRow.mk "WRITE_BYTE" 0x0100 0xFF00).matchesWord w = true) : opField w = 0x01#8 := by
  have hw : w &&& 0xFF00 = 0x0100 := by simpa [OpcodeRow.matchesWord] using h
  calc opField w = opField (w &&& 0xFF00) := by
        simp only [opField, BitVec.extractLsb'_and]
        exact BitVec.and_allOnes.symm
    _ = 0x01#8 := by rw [hw]; rfl

/-- A word of a row is the word of a command. -/
theorem exists_eq_encode_of_matchesWord {r : OpcodeRow} (hr : r ∈ opcodeTable) {w : CmdWord}
    (hw : r.matchesWord w = true) : ∃ i, w = encode i := by
  simp only [opcodeTable, List.mem_cons, List.not_mem_nil, or_false] at hr
  rcases hr with rfl | rfl | rfl | rfl | rfl | rfl
  · exact ⟨.nop, matchesWord_full_iff.mp hw⟩
  · exact ⟨.writeByte (argField w), by
      rw [encode_writeByte, ← opField_of_matchesWord_writeByte hw]; exact word_eq_fields w⟩
  · exact ⟨.clearInput, matchesWord_full_iff.mp hw⟩
  · exact ⟨.start, matchesWord_full_iff.mp hw⟩
  · exact ⟨.resetState, matchesWord_full_iff.mp hw⟩
  · exact ⟨.clearStatus, matchesWord_full_iff.mp hw⟩

/-- No mnemonic has two rows. -/
theorem opcodeTable_mnemonic_inj : ∀ r₁ ∈ opcodeTable, ∀ r₂ ∈ opcodeTable, r₁.mnemonic = r₂.mnemonic → r₁ = r₂ := by
  decide

/-- Settles O4: a word of a row is some command's, and that command's rows are those of its mnemonic. -/
theorem opcodeTableRowsDecode : Obligations.OpcodeTableRowsDecode := by
  refine ⟨fun r w hr => ⟨fun hw => ?_, ?_⟩, fun r₁ r₂ w hr₁ hr₂ hw₁ hw₂ => ?_⟩
  · obtain ⟨i, rfl⟩ := exists_eq_encode_of_matchesWord hr hw
    exact ⟨i, decode_encode i, ((matchesWord_encode_iff hr i).mp hw).symm⟩
  · rintro ⟨i, hi, hname⟩
    rw [← encode_of_decode hi]
    exact (matchesWord_encode_iff hr i).mpr hname.symm
  · obtain ⟨i, rfl⟩ := exists_eq_encode_of_matchesWord hr₁ hw₁
    exact opcodeTable_mnemonic_inj r₁ hr₁ r₂ hr₂
      (((matchesWord_encode_iff hr₁ i).mp hw₁).trans ((matchesWord_encode_iff hr₂ i).mp hw₂).symm)

end Sys2Proof
end

section
/-! PROOF. What an edge can do (45_commands.md R190), as one inductive relation between the states before and after it. -/

namespace Sys2Proof.Machine

/-- The edge from `s` accepts the word `w` (R190): no reset, IDLE, and `w` offered. -/
structure State.Accepts (s : State) (w : CmdWord) : Prop where
  rst      : s.sampledPorts.rst = false
  fsm      : s.fsm = .idle
  cmdValid : s.sampledPorts.cmdValid = true
  cmd      : s.sampledPorts.cmd = w

/-- Everything an edge can do, one constructor for each kind of edge and each effect of an accepted word (R190 to R194, R200
to R208). `stepTo_of_step` and `step_of_stepTo` say that this is the step. -/
inductive StepTo (s : State) : State → Prop where
  | reset (hr : s.sampledPorts.rst = true) : StepTo s (resetStep s.dropPorts)
  | quiet (hr : s.sampledPorts.rst = false) (hf : s.fsm = .idle) (hv : s.sampledPorts.cmdValid = false) :
      StepTo s s.dropPorts
  | run (hr : s.sampledPorts.rst = false) (hf : s.fsm = .run) : StepTo s (runEdge s.dropPorts)
  | fin (hr : s.sampledPorts.rst = false) (hf : s.fsm = .fin) : StepTo s (finEdge s.dropPorts)
  | illegal {w : CmdWord} {e : DecodeError} (ha : s.Accepts w) (hw : decode w = .error e) :
      StepTo s (raise .illegalCommand s.dropPorts)
  | nop (ha : s.Accepts (encode .nop)) : StepTo s s.dropPorts
  | writeByte (x : Byte) (ha : s.Accepts (encode (.writeByte x))) : StepTo s (appendByte x s.dropPorts)
  | clearInput (ha : s.Accepts (encode .clearInput)) : StepTo s (clearCount s.dropPorts)
  | startRejected (ha : s.Accepts (encode .start)) (hc : s.inCount ≠ 20#5) :
      StepTo s (raise .invalidInputLength s.dropPorts)
  | startLoaded (ha : s.Accepts (encode .start)) (hc : s.inCount = 20#5) : StepTo s (loadTransform s.dropPorts)
  | resetState (ha : s.Accepts (encode .resetState)) : StepTo s (reloadHash s.dropPorts)
  | clearStatus (ha : s.Accepts (encode .clearStatus)) : StepTo s (clearFlags s.dropPorts)

/-- An accepted command does what its `exec` does. -/
theorem stepTo_of_exec {s t : State} {i : Instr} (ha : s.Accepts (encode i)) (h : exec i s.dropPorts = .next t) :
    StepTo s t := by
  rcases exec_cases h with ⟨rfl, rfl⟩ | ⟨x, rfl, rfl⟩ | ⟨rfl, rfl⟩ | ⟨rfl, hc, rfl⟩ | ⟨rfl, hc, rfl⟩ | ⟨rfl, rfl⟩ | ⟨rfl, rfl⟩
  · exact .nop ha
  · exact .writeByte x ha
  · exact .clearInput ha
  · exact .startRejected ha hc
  · exact .startLoaded ha hc
  · exact .resetState ha
  · exact .clearStatus ha

/-- Whatever a step does is one of these. -/
theorem stepTo_of_step {s t : State} (h : step s = .next t) : StepTo s t := by
  rcases step_cases h with ⟨hr, rfl⟩ | ⟨hr, ⟨hf, hv, hcmd⟩ | ⟨hf, hv, rfl⟩ | ⟨hf, rfl⟩ | ⟨hf, rfl⟩⟩
  · exact .reset hr
  · rcases hcmd with ⟨i, hi, hexec⟩ | ⟨e, he, rfl⟩
    · exact stepTo_of_exec ⟨hr, hf, hv, decode_eq_ok_iff.mp hi⟩ hexec
    · exact .illegal ⟨hr, hf, hv, rfl⟩ he
  · exact .quiet hr hf hv
  · exact .run hr hf
  · exact .fin hr hf

/-- An edge that accepts a word is the word's effect (R190). -/
theorem step_of_accepts {s : State} {w : CmdWord} (ha : s.Accepts w) : step s = accept w s.dropPorts := by
  obtain ⟨hr, hf, hv, rfl⟩ := ha
  simp [step_eq_edge, edge, hr, hf, hv]

/-- An edge that accepts a command executes it (R190). -/
theorem step_of_accepts_command {s : State} {i : Instr} (ha : s.Accepts (encode i)) : step s = exec i s.dropPorts := by
  rw [step_of_accepts ha, accept_of_ok (decode_encode i)]

/-- Each of these is what the step does. -/
theorem step_of_stepTo {s t : State} (h : StepTo s t) : step s = .next t := by
  cases h with
  | reset hr => exact edge_of_rst hr _
  | quiet hr hf hv => exact edge_of_idle hr hv hf
  | run hr hf => exact edge_of_run hr hf
  | fin hr hf => exact edge_of_fin hr hf
  | illegal ha hw => rw [step_of_accepts ha, accept_of_not_ok (by simp [hw])]
  | nop ha => rw [step_of_accepts_command ha, exec_nop]
  | writeByte x ha => rw [step_of_accepts_command ha, exec_writeByte]
  | clearInput ha => rw [step_of_accepts_command ha, exec_clearInput]
  | startRejected ha hc => rw [step_of_accepts_command ha, exec_start_of_other (by exact hc)]
  | startLoaded ha hc => rw [step_of_accepts_command ha, exec_start_of_twenty (by exact hc)]
  | resetState ha => rw [step_of_accepts_command ha, exec_resetState]
  | clearStatus ha => rw [step_of_accepts_command ha, exec_clearStatus]

/-! ### Totality (R190) -/

theorem exec_total (i : Instr) (s : State) : ∃ t, exec i s = .next t := by
  cases i with
  | nop => exact ⟨_, exec_nop s⟩
  | writeByte x => exact ⟨_, exec_writeByte x s⟩
  | clearInput => exact ⟨_, exec_clearInput s⟩
  | start =>
    by_cases hc : s.inCount = 20#5
    · exact ⟨_, exec_start_of_twenty hc⟩
    · exact ⟨_, exec_start_of_other hc⟩
  | resetState => exact ⟨_, exec_resetState s⟩
  | clearStatus => exact ⟨_, exec_clearStatus s⟩

theorem accept_total (w : CmdWord) (s : State) : ∃ t, accept w s = .next t := by
  unfold accept
  split
  · exact exec_total _ s
  · exact ⟨_, rfl⟩

/-- Settles O11: by the kinds of edge; an accepted word has an effect in every state (`accept_total`). -/
theorem stepIsTotal : Obligations.StepIsTotal := fun s => by
  cases hr : s.sampledPorts.rst with
  | true => exact ⟨_, step_of_stepTo (.reset hr)⟩
  | false =>
    cases hf : s.fsm with
    | idle =>
      cases hv : s.sampledPorts.cmdValid with
      | true => rw [step_of_accepts ⟨hr, hf, hv, rfl⟩]; exact accept_total _ _
      | false => exact ⟨_, step_of_stepTo (.quiet hr hf hv)⟩
    | run => exact ⟨_, step_of_stepTo (.run hr hf)⟩
    | fin => exact ⟨_, step_of_stepTo (.fin hr hf)⟩

/-! ### The command port -/

/-- R190: a command accepted on explicit ports. -/
theorem step_of_command {s : State} {p : PortIn} {rest : List PortIn} {i : Instr} (hf : s.fsm = .idle)
    (hp : s.ports = p :: rest) (hr : p.rst = false) (hv : p.cmdValid = true) (hi : decode p.cmd = .ok i) :
    step s = exec i { s with ports := rest } := by
  have hs := sampledPorts_cons hp
  rw [step_of_accepts (w := p.cmd) ⟨by rw [hs, hr], hf, by rw [hs, hv], by rw [hs]⟩, dropPorts_cons hp, accept_of_ok hi]

/-- Settles O6: the accepting edge on explicit ports. -/
theorem stepRunsDecodedCommand : Obligations.StepRunsDecodedCommand := fun _ _ _ _ => step_of_command

/-- R75: a table word of sixteen bits that is a command is decoded as a command word. -/
theorem decode_of_decodeTableWord {w : Nat} {i : Instr} (h : decodeTableWord 16 w = some i) :
    decode (BitVec.ofNat 16 (w % 2 ^ 16)) = .ok i := by
  simp only [decodeTableWord] at h
  rw [if_pos (by omega)] at h
  cases hd : decode (BitVec.ofNat 16 (w % 2 ^ 16)) with
  | ok j => rw [hd] at h; cases h; rfl
  | error e => rw [hd] at h; cases h

/-- Settles O7: `withFetchWord` is IDLE with the word offered at the next edge. -/
theorem placedWordRunsNext : Obligations.PlacedWordRunsNext := fun _ _ _ h =>
  step_of_command rfl rfl rfl rfl (decode_of_decodeTableWord h)

/-- Settles O10: a used-up list and a list of one quiet record give the edge the same ports and leave the same list. -/
theorem usedUpPortsAreQuiet : Obligations.UsedUpPortsAreQuiet := fun s hp => by
  have hsampled : s.sampledPorts = .quiet := by rw [State.sampledPorts, hp]; rfl
  have hdrop : s.dropPorts = { s with ports := [] } := by rw [State.dropPorts, hp]; rfl
  rw [step_cons (s := { s with ports := [⟨false, false, 0⟩] }) rfl, step_eq_edge, hsampled, hdrop]
  rfl

/-- R193, R237: at a busy edge and at a reset edge the command port is not read. -/
theorem edge_ignores_command {s : State} {rst : Bool} (h : s.fsm ≠ .idle ∨ rst = true) (v₁ v₂ : Bool) (w₁ w₂ : CmdWord) :
    edge ⟨rst, v₁, w₁⟩ s = edge ⟨rst, v₂, w₂⟩ s := by
  cases rst with
  | true => rfl
  | false =>
    cases hf : s.fsm with
    | idle => simp [hf] at h
    | run => rw [edge_of_run rfl hf, edge_of_run rfl hf]
    | fin => rw [edge_of_fin rfl hf, edge_of_fin rfl hf]

/-- Settles O12: both steps are that edge. -/
theorem busyEdgeIgnoresCommand : Obligations.BusyEdgeIgnoresCommand := fun s _ v₁ v₂ w₁ w₂ rest h =>
  edge_ignores_command (s := { s with ports := rest }) h v₁ v₂ w₁ w₂

end Sys2Proof.Machine
end

section
/-! PROOF. What changes at an edge, register by register (10_state.md R20 to R30): each statement goes through the cases of
`StepTo`. -/

namespace Sys2Proof.Machine

/-! ### H and ACCUMULATE -/

/-- Settles O35: no case writes ACCUMULATE. -/
theorem accumulateNeverChanges : Obligations.AccumulateNeverChanges := fun s t h => by
  cases stepTo_of_step h
  all_goals rfl

/-- R20: the edges that write `H`. -/
theorem h_changes_only_at {s t : State} (h : StepTo s t) (hne : t.h ≠ s.h) :
    s.sampledPorts.rst = true ∨ s.fsm = .fin ∨ s.Accepts (encode .resetState) := by
  cases h with
  | reset hr => exact .inl hr
  | fin hr hf => exact .inr (.inl hf)
  | resetState ha => exact .inr (.inr ha)
  | _ => exact absurd rfl hne

/-- Settles O36: `dout` shows `H`, so it changes only with it. -/
theorem hashChangesOnlyAt : Obligations.HashChangesOnlyAt := fun s t h hne => by
  have hh : t.h ≠ s.h := fun heq => hne.elim (· heq) (· (dout_congr heq))
  rcases h_changes_only_at (stepTo_of_step h) hh with hr | hf | ⟨-, hf, hv, hcmd⟩
  · exact .inl hr
  · exact .inr (.inl hf)
  · exact .inr (.inr ⟨hf, hv, hcmd⟩)

/-! ### ERR -/

/-- Settles O37: the cases that write ERR are the reset, the two rejections and CLEAR_STATUS. -/
theorem errChangesOnlyAt : Obligations.ErrChangesOnlyAt := fun s t h hne => by
  cases stepTo_of_step h with
  | reset hr => exact .inl hr
  | illegal ha hw => exact .inr ⟨ha.fsm, ha.cmdValid, .inr (.inl ⟨_, ha.cmd ▸ hw⟩)⟩
  | startRejected ha hc => exact .inr ⟨ha.fsm, ha.cmdValid, .inr (.inr ⟨ha.cmd, hc⟩)⟩
  | clearStatus ha => exact .inr ⟨ha.fsm, ha.cmdValid, .inl ha.cmd⟩
  | _ => exact absurd rfl hne

theorem accepts_withErr {s : State} {w : CmdWord} (ha : s.Accepts w) (e : ErrCode) : { s with err := e }.Accepts w :=
  ⟨ha.rst, ha.fsm, ha.cmdValid, ha.cmd⟩

/-- R30, R235: with another error code the same kind of edge is taken, to a state equal but for ERR. -/
theorem stepTo_withErr {s t : State} (h : StepTo s t) (e : ErrCode) :
    ∃ u, StepTo { s with err := e } u ∧ { u with err := t.err } = t := by
  cases h with
  | reset hr => exact ⟨_, .reset hr, rfl⟩
  | quiet hr hf hv => exact ⟨_, .quiet hr hf hv, rfl⟩
  | run hr hf => exact ⟨_, .run hr hf, rfl⟩
  | fin hr hf => exact ⟨_, .fin hr hf, rfl⟩
  | illegal ha hw => exact ⟨_, .illegal (accepts_withErr ha e) hw, rfl⟩
  | nop ha => exact ⟨_, .nop (accepts_withErr ha e), rfl⟩
  | writeByte x ha => exact ⟨_, .writeByte x (accepts_withErr ha e), rfl⟩
  | clearInput ha => exact ⟨_, .clearInput (accepts_withErr ha e), rfl⟩
  | startRejected ha hc => exact ⟨_, .startRejected (accepts_withErr ha e) hc, rfl⟩
  | startLoaded ha hc => exact ⟨_, .startLoaded (accepts_withErr ha e) hc, rfl⟩
  | resetState ha => exact ⟨_, .resetState (accepts_withErr ha e), rfl⟩
  | clearStatus ha => exact ⟨_, .clearStatus (accepts_withErr ha e), rfl⟩

/-- Settles O38: that edge is the step. -/
theorem errBlocksNothing : Obligations.ErrBlocksNothing := fun s t e h => by
  obtain ⟨u, hu, heq⟩ := stepTo_withErr (stepTo_of_step h) e
  exact ⟨u, step_of_stepTo hu, heq⟩

/-! ### DONE -/

/-- R29: the one edge that sets DONE. -/
theorem done_set_only_at {s t : State} (h : StepTo s t) (hs : s.done = false) (ht : t.done = true) :
    s.sampledPorts.rst = false ∧ s.fsm = .fin := by
  cases h with
  | fin hr hf => exact ⟨hr, hf⟩
  | reset | startLoaded | resetState | clearStatus => cases ht
  | _ => cases hs.symm.trans ht

/-- R29: the edges that clear DONE. -/
theorem done_cleared_only_at {s t : State} (h : StepTo s t) (hs : s.done = true) (ht : t.done = false) :
    s.sampledPorts.rst = true ∨ (s.Accepts (encode .start) ∧ s.inCount = 20#5) ∨ s.Accepts (encode .resetState) ∨
      s.Accepts (encode .clearStatus) := by
  cases h with
  | reset hr => exact .inl hr
  | startLoaded ha hc => exact .inr (.inl ⟨ha, hc⟩)
  | resetState ha => exact .inr (.inr (.inl ha))
  | clearStatus ha => exact .inr (.inr (.inr ha))
  | fin => cases ht
  | _ => cases hs.symm.trans ht

/-- Settles O39: the two directions, with the accepted words written out. -/
theorem doneChangesOnlyAt : Obligations.DoneChangesOnlyAt := fun s t h => by
  refine ⟨done_set_only_at (stepTo_of_step h), fun hs ht => ?_⟩
  rcases done_cleared_only_at (stepTo_of_step h) hs ht with hr | ⟨ha, hc⟩ | ha | ha
  · exact .inl hr
  · exact .inr ⟨ha.fsm, ha.cmdValid, .inl ⟨ha.cmd, hc⟩⟩
  · exact .inr ⟨ha.fsm, ha.cmdValid, .inr (.inl ha.cmd)⟩
  · exact .inr ⟨ha.fsm, ha.cmdValid, .inr (.inr ha.cmd)⟩

/-! ### IBUF -/

/-- R201: a byte that `storeByte` changes has the place of the counter, and takes the operand. -/
theorem storeByte_changes_only_at {ibuf : Vector Byte 20} {c : BitVec 5} {x : Byte} {j : Fin 20}
    (h : (storeByte ibuf c x)[j.val] ≠ ibuf[j.val]) : c.toNat = j.val ∧ (storeByte ibuf c x)[j.val] = x := by
  rw [storeByte_get _ _ _ _ j.isLt] at h ⊢
  split_ifs at h ⊢ with hplace
  · exact ⟨hplace.2.symm, rfl⟩
  · exact absurd rfl h

/-- Settles O40: only WRITE_BYTE and the reset write IBUF. -/
theorem inputByteChangesOnlyAt : Obligations.InputByteChangesOnlyAt := fun s t j h hne => by
  cases stepTo_of_step h with
  | reset hr => exact .inl hr
  | writeByte x ha =>
    obtain ⟨hplace, hbyte⟩ := storeByte_changes_only_at hne
    exact .inr ⟨ha.fsm, ha.cmdValid, hplace, ha.cmd.trans (congrArg (0x01#8 ++ ·) hbyte.symm)⟩
  | _ => exact absurd rfl hne

/-! ### FSM and the round counter -/

/-- The edge accepts a START with twenty bytes loaded, on the ports as they stand (R203). -/
abbrev State.startsNow (s : State) : Prop :=
  s.sampledPorts.cmdValid = true ∧ s.sampledPorts.cmd = 0x0300#16 ∧ s.inCount = 20#5

/-- An accepted word is START's only when it decodes to START. -/
theorem not_startsNow_of_accepts {s : State} {w : CmdWord} (ha : s.Accepts w) (hw : decode w ≠ .ok .start) :
    ¬ s.startsNow := fun ⟨_, hcmd, _⟩ => hw (by rw [← ha.cmd, hcmd]; rfl)

/-- How the sequencer leaves IDLE, or stays: to RUN with t = 0 when a transform starts, else nothing moves (R26, R203). -/
abbrev State.idleMove (s t : State) : Prop :=
  t.fsm = (if s.startsNow then .run else .idle) ∧ t.t = (if s.startsNow then 0#7 else s.t)

theorem idleMove_of_not_startsNow {s t : State} (hf : s.fsm = .idle) (hnot : ¬ s.startsNow) (hfsm : t.fsm = s.fsm)
    (ht : t.t = s.t) : s.idleMove t :=
  ⟨by rw [if_neg hnot, hfsm, hf], by rw [if_neg hnot, ht]⟩

/-- R26, R203: from IDLE only an accepted START with twenty bytes moves the sequencer. -/
theorem idleMove_of_stepTo {s t : State} (h : StepTo s t) (hr : s.sampledPorts.rst = false) (hf : s.fsm = .idle) :
    s.idleMove t := by
  cases h with
  | reset hreset => cases hr.symm.trans hreset
  | run _ hrun => cases hf.symm.trans hrun
  | fin _ hfin => cases hf.symm.trans hfin
  | startLoaded ha hc =>
    have hstarts : s.startsNow := ⟨ha.cmdValid, ha.cmd, hc⟩
    exact ⟨(if_pos hstarts).symm, (if_pos hstarts).symm⟩
  | quiet _ _ hv => exact idleMove_of_not_startsNow hf (fun ⟨hvalid, _⟩ => by cases hv.symm.trans hvalid) rfl rfl
  | startRejected _ hc => exact idleMove_of_not_startsNow hf (fun ⟨_, _, hcount⟩ => hc hcount) rfl rfl
  | illegal ha hw => exact idleMove_of_not_startsNow hf (not_startsNow_of_accepts ha (by simp [hw])) rfl rfl
  | nop ha | writeByte _ ha | clearInput ha | resetState ha | clearStatus ha =>
    exact idleMove_of_not_startsNow hf (not_startsNow_of_accepts ha (by simp)) rfl rfl

/-- R191: a RUN edge without a reset. -/
theorem eq_runEdge_of_stepTo {s t : State} (h : StepTo s t) (hr : s.sampledPorts.rst = false) (hf : s.fsm = .run) :
    t = runEdge s.dropPorts :=
  Host.Outcome.next.inj ((step_of_stepTo h).symm.trans (step_of_stepTo (.run hr hf)))

/-- R192: a FIN edge without a reset. -/
theorem eq_finEdge_of_stepTo {s t : State} (h : StepTo s t) (hr : s.sampledPorts.rst = false) (hf : s.fsm = .fin) :
    t = finEdge s.dropPorts :=
  Host.Outcome.next.inj ((step_of_stepTo h).symm.trans (step_of_stepTo (.fin hr hf)))

/-- Settles O41: by the sequencer's state. -/
theorem sequencerMoves : Obligations.SequencerMoves := fun s t h hr => by
  have hstep := stepTo_of_step h
  refine ⟨idleMove_of_stepTo hstep hr, fun hf => ?_, fun hf => ?_⟩
  · rw [eq_runEdge_of_stepTo hstep hr hf]; exact ⟨rfl, rfl⟩
  · rw [eq_finEdge_of_stepTo hstep hr hf]; exact ⟨rfl, rfl⟩

end Sys2Proof.Machine
end

section
/-! PROOF. The invariants of the machine: legal register values (10_state.md R25, R28, 60_exceptions.md R233), and a transform
in flight on the track of `Rounds(S, B)` (42_message_schedule.md R124, 43_round_pipeline.md R150). -/

namespace Sys2Proof.Machine

/-! ### Legal register values, operation by operation -/

theorem legal_resetStep (s : State) : (resetStep s).legal :=
  ⟨by simp, by simp, by simp, fun _ => rfl, fun _ => rfl, fun h => absurd rfl h⟩

theorem legal_dropPorts {s : State} (h : s.legal) : s.dropPorts.legal := h

theorem legal_raise {e : ErrCode} (he : e ≠ .allocationFailure) {s : State} (h : s.legal) : (raise e s).legal := by
  obtain ⟨ht, hcount, -, houtside, hdone, htwenty⟩ := h
  exact ⟨ht, hcount, he, houtside, hdone, htwenty⟩

theorem legal_clearFlags {s : State} (h : s.legal) : (clearFlags s).legal := by
  obtain ⟨ht, hcount, -, houtside, -, htwenty⟩ := h
  exact ⟨ht, hcount, by simp, houtside, by simp, htwenty⟩

theorem legal_reloadHash {s : State} (h : s.legal) : (reloadHash s).legal := by
  obtain ⟨ht, hcount, herr, houtside, -, htwenty⟩ := h
  exact ⟨ht, hcount, herr, houtside, by simp, htwenty⟩

/-- In IDLE the counter may take any value up to 21. -/
theorem legal_clearCount {s : State} (hf : s.fsm = .idle) (h : s.legal) : (clearCount s).legal := by
  obtain ⟨ht, -, herr, houtside, hdone, -⟩ := h
  exact ⟨ht, by simp, herr, houtside, hdone, fun hbusy => absurd hf hbusy⟩

theorem legal_appendByte (x : Byte) {s : State} (hf : s.fsm = .idle) (h : s.legal) : (appendByte x s).legal := by
  obtain ⟨ht, hcount, herr, houtside, hdone, -⟩ := h
  have hnext : (nextCount s.inCount).toNat ≤ 21 := by rw [nextCount_toNat]; split <;> omega
  exact ⟨ht, hnext, herr, houtside, hdone, fun hbusy => absurd hf hbusy⟩

theorem legal_loadTransform {s : State} (hc : s.inCount = 20#5) (h : s.legal) : (loadTransform s).legal := by
  obtain ⟨-, hcount, herr, -, -, -⟩ := h
  exact ⟨by simp, hcount, herr, fun _ => rfl, by simp, fun _ => hc⟩

/-- R191: the counter goes up to 79 and is 0 when the sequencer leaves RUN. -/
theorem legal_runEdge {s : State} (hf : s.fsm = .run) (h : s.legal) : (runEdge s).legal := by
  obtain ⟨ht, hcount, herr, -, hdone, htwenty⟩ := h
  have hnext : (nextRound s.t).toNat ≤ 79 := by rw [nextRound_toNat ht]; split <;> omega
  have hleaves : nextFsm s.t ≠ .run → nextRound s.t = 0#7 := fun hout => by
    rw [nextRound, if_pos (not_not.mp fun h79 => hout (if_neg h79))]
  have hbusy : s.done ≠ true := fun hd => nomatch hf.symm.trans (hdone hd)
  exact ⟨hnext, hcount, herr, hleaves, fun hd => absurd hd hbusy, fun _ => htwenty (by simp [hf])⟩

theorem legal_finEdge {s : State} (hf : s.fsm = .fin) (h : s.legal) : (finEdge s).legal := by
  obtain ⟨ht, hcount, herr, houtside, -, -⟩ := h
  exact ⟨ht, hcount, herr, fun _ => houtside (by simp [hf]), fun _ => rfl, fun hbusy => absurd rfl hbusy⟩

/-- Settles O42: each kind of edge by the lemma of its operation. -/
theorem legalStatesKept : Obligations.LegalStatesKept := fun s t hs h => by
  have hdrop := legal_dropPorts hs
  cases stepTo_of_step h with
  | reset => exact legal_resetStep _
  | quiet | nop => exact hdrop
  | run _ hf => exact legal_runEdge hf hdrop
  | fin _ hf => exact legal_finEdge hf hdrop
  | illegal | startRejected => exact legal_raise (by simp) hdrop
  | writeByte x ha => exact legal_appendByte x ha.fsm hdrop
  | clearInput ha => exact legal_clearCount ha.fsm hdrop
  | startLoaded _ hc => exact legal_loadTransform hc hdrop
  | resetState => exact legal_reloadHash hdrop
  | clearStatus => exact legal_clearFlags hdrop

/-! ### A transform in flight on its track -/

/-- Outside a transform there is no track to keep. -/
theorem onTrack_of_idle {s : State} (hf : s.fsm = .idle) : s.onTrack :=
  ⟨fun h => (nomatch hf.symm.trans h), fun h => (nomatch hf.symm.trans h)⟩

/-- R203, R122: the load edge starts the track, with no round done and the block in the window. -/
theorem onTrack_loadTransform (s : State) : (loadTransform s).onTrack := by
  refine ⟨fun _ => ⟨rfl, fun j _ => ?_⟩, fun h => by cases h⟩
  rw [loadTransform_t, show (0#7).toNat + j.val = j.val from Nat.zero_add _]
  exact (schedule_block (inputBlock s.ibuf) j).symm

/-- R146: the working registers of one more round. -/
theorem runEdge_work_of_onTrack {s : State} (ht : s.t.toNat ≤ 79) (hf : s.fsm = .run) (h : s.onTrack) :
    (runEdge s).work = roundsUpTo s.inputSchedule (Working.ofWords s.seed) (s.t.toNat + 1) := by
  obtain ⟨inRun, -⟩ := h
  obtain ⟨hwork, hwindow⟩ := inRun hf
  have hhead : s.wr[0] = s.inputSchedule s.t.toNat := hwindow 0 ht
  rw [runEdge_work, hwork, hhead]
  rfl

/-- R191: a RUN edge goes one round along the track, or to FIN after the 80th. -/
theorem onTrack_runEdge {s : State} (ht : s.t.toNat ≤ 79) (hf : s.fsm = .run) (h : s.onTrack) : (runEdge s).onTrack := by
  have hwork := runEdge_work_of_onTrack ht hf h
  obtain ⟨inRun, -⟩ := h
  obtain ⟨-, hwindow⟩ := inRun hf
  by_cases hlast : s.t.toNat = 79
  · have hfin : (runEdge s).fsm = .fin := by rw [runEdge_fsm, nextFsm_eq, if_pos hlast]
    refine ⟨fun hrun => (nomatch hfin.symm.trans hrun), fun _ => ?_⟩
    rw [hwork, hlast, rounds_eq]
    rfl
  · have hrun : (runEdge s).fsm = .run := by rw [runEdge_fsm, nextFsm_eq, if_neg hlast]
    have hnext : (runEdge s).t.toNat = s.t.toNat + 1 := by rw [runEdge_t, nextRound_toNat ht, if_neg hlast]
    refine ⟨fun _ => ?_, fun hfin => (nomatch hrun.symm.trans hfin)⟩
    rw [hnext]
    exact ⟨hwork, windowShift_tracks s.inputSchedule s.t.toNat s.wr (schedule_recurrence _) hwindow⟩

/-- Settles O44: the load edge starts a track, a RUN edge follows it, and every other edge ends in IDLE. -/
theorem transformStaysOnTrack : Obligations.TransformStaysOnTrack := fun s t hlegal htrack h => by
  cases stepTo_of_step h with
  | run _ hf => exact onTrack_runEdge (s := s.dropPorts) hlegal.1 hf htrack
  | startLoaded => exact onTrack_loadTransform _
  | reset | fin => exact onTrack_of_idle rfl
  | quiet _ hf => exact onTrack_of_idle hf
  | illegal ha | nop ha | writeByte _ ha | clearInput ha | startRejected ha | resetState ha | clearStatus ha =>
    exact onTrack_of_idle ha.fsm

/-! ### Both hold at reset -/

theorem legal_resetOf (acc : Bool) : (State.resetOf acc).legal := legal_resetStep (State.resetOf acc)

/-- Settles O43: the reset state is what a reset step leaves. -/
theorem resetStateLegal : Obligations.ResetStateLegal := ⟨legal_resetOf, legal_resetOf _⟩

/-- Settles O45: the reset state is in IDLE. -/
theorem resetStateOnTrack : Obligations.ResetStateOnTrack :=
  ⟨fun _ => ⟨rfl, onTrack_of_idle rfl⟩, rfl, onTrack_of_idle rfl⟩

/-- Settles O13: field by field; the window and IBUF are vectors of equal entries. -/
theorem resetStateValues : Obligations.ResetStateValues :=
  ⟨rfl, fun _ => ⟨rfl, rfl, rfl, fun j => Vector.getElem_replicate (n := 16) j.isLt, rfl, rfl,
    fun j => Vector.getElem_replicate (n := 20) j.isLt, rfl, rfl, rfl, rfl⟩⟩

end Sys2Proof.Machine
end

section
/-! PROOF. Registers no output shows make no difference (10_state.md R37, 70_reset_and_hazards.md R262): `sameVisible` is kept
by each operation, and with it by the step. -/

namespace Sys2Proof.Machine

section
variable {s₁ s₂ : State} (h : s₁.sameVisible s₂)
include h

/-! ### The outputs -/

theorem status_of_sameVisible : s₁.status = s₂.status := by
  obtain ⟨hacc, -, hfsm, hcount, hdone, herr, -, -, -⟩ := h
  exact status_congr hacc hcount herr hdone hfsm

theorem dout_of_sameVisible : s₁.dout = s₂.dout := by
  obtain ⟨-, hh, -⟩ := h
  exact dout_congr hh

theorem cmdReady_of_sameVisible : s₁.cmdReady = s₂.cmdReady := by
  obtain ⟨-, -, hfsm, -⟩ := h
  rw [State.cmdReady, State.cmdReady, hfsm]

/-- R37: the seed is made of what is visible. -/
theorem seed_of_sameVisible : s₁.seed = s₂.seed := by
  obtain ⟨hacc, hh, -⟩ := h
  exact seed_congr hacc hh

/-- With twenty bytes loaded, all of IBUF is visible. -/
theorem ibuf_of_sameVisible (hc : s₁.inCount = 20#5) : s₁.ibuf = s₂.ibuf := by
  obtain ⟨-, -, -, -, -, -, -, hbytes, -⟩ := h
  exact Vector.ext fun j hj => hbytes ⟨j, hj⟩ (by rw [hc]; exact hj)

/-! ### The operations -/

theorem sameVisible_resetStep : (resetStep s₁).sameVisible (resetStep s₂) := by
  obtain ⟨hacc, -, -, -, -, -, hports, -, -⟩ := h
  exact ⟨hacc, rfl, rfl, rfl, rfl, rfl, hports, fun _ _ => rfl, fun _ => ⟨rfl, rfl, rfl⟩⟩

theorem sameVisible_dropPorts : s₁.dropPorts.sameVisible s₂.dropPorts := by
  obtain ⟨hacc, hh, hfsm, hcount, hdone, herr, hports, hbytes, hhidden⟩ := h
  exact ⟨hacc, hh, hfsm, hcount, hdone, herr, congrArg List.tail hports, hbytes, hhidden⟩

theorem sameVisible_raise (e : ErrCode) : (raise e s₁).sameVisible (raise e s₂) := by
  obtain ⟨hacc, hh, hfsm, hcount, hdone, -, hports, hbytes, hhidden⟩ := h
  exact ⟨hacc, hh, hfsm, hcount, hdone, rfl, hports, hbytes, hhidden⟩

theorem sameVisible_clearFlags : (clearFlags s₁).sameVisible (clearFlags s₂) := by
  obtain ⟨hacc, hh, hfsm, hcount, -, -, hports, hbytes, hhidden⟩ := h
  exact ⟨hacc, hh, hfsm, hcount, rfl, rfl, hports, hbytes, hhidden⟩

theorem sameVisible_reloadHash : (reloadHash s₁).sameVisible (reloadHash s₂) := by
  obtain ⟨hacc, -, hfsm, hcount, -, herr, hports, hbytes, hhidden⟩ := h
  exact ⟨hacc, rfl, hfsm, hcount, rfl, herr, hports, hbytes, hhidden⟩

/-- With the counter at 0 no byte of IBUF is visible. -/
theorem sameVisible_clearCount : (clearCount s₁).sameVisible (clearCount s₂) := by
  obtain ⟨hacc, hh, hfsm, -, hdone, herr, hports, -, hhidden⟩ := h
  exact ⟨hacc, hh, hfsm, rfl, hdone, herr, hports, fun j hj => absurd hj (Nat.not_lt_zero j.val), hhidden⟩

/-- The byte that becomes visible is the operand, the same on both sides. -/
theorem sameVisible_appendByte (x : Byte) : (appendByte x s₁).sameVisible (appendByte x s₂) := by
  obtain ⟨hacc, hh, hfsm, hcount, hdone, herr, hports, hbytes, hhidden⟩ := h
  refine ⟨hacc, hh, hfsm, congrArg nextCount hcount, hdone, herr, hports, fun j hj => ?_, hhidden⟩
  rw [appendByte_inCount, nextCount_toNat] at hj
  rw [appendByte_ibuf, appendByte_ibuf, storeByte_get _ _ _ _ j.isLt, storeByte_get _ _ _ _ j.isLt, ← hcount]
  split_ifs with hplace
  · rfl
  · exact hbytes j (by have := j.isLt; split_ifs at hj <;> omega)

/-- R203: what the load edge makes visible comes from IBUF and the seed, both visible already. -/
theorem sameVisible_loadTransform (hc : s₁.inCount = 20#5) : (loadTransform s₁).sameVisible (loadTransform s₂) := by
  have hwr : inputBlock s₁.ibuf = inputBlock s₂.ibuf := congrArg inputBlock (ibuf_of_sameVisible h hc)
  have hwork : Working.ofWords s₁.seed = Working.ofWords s₂.seed := congrArg Working.ofWords (seed_of_sameVisible h)
  obtain ⟨hacc, hh, -, hcount, -, herr, hports, hbytes, -⟩ := h
  exact ⟨hacc, hh, rfl, hcount, rfl, herr, hports, hbytes, fun _ => ⟨hwork, hwr, rfl⟩⟩

theorem sameVisible_runEdge (hf : s₁.fsm = .run) : (runEdge s₁).sameVisible (runEdge s₂) := by
  obtain ⟨hacc, hh, -, hcount, hdone, herr, hports, hbytes, hhidden⟩ := h
  obtain ⟨hwork, hwr, ht⟩ := hhidden (by simp [hf])
  exact ⟨hacc, hh, congrArg nextFsm ht, hcount, hdone, herr, hports, hbytes,
    fun _ => ⟨by rw [runEdge_work, runEdge_work, hwork, hwr, ht], congrArg windowShift hwr, congrArg nextRound ht⟩⟩

/-- R171: the digest is made of the seed and of registers that count while the transform is in flight. -/
theorem sameVisible_finEdge (hf : s₁.fsm = .fin) : (finEdge s₁).sameVisible (finEdge s₂) := by
  have hseed := seed_of_sameVisible h
  obtain ⟨hacc, -, -, hcount, -, herr, hports, hbytes, hhidden⟩ := h
  obtain ⟨hwork, -, -⟩ := hhidden (by simp [hf])
  exact ⟨hacc, by rw [finEdge_h, finEdge_h, hseed, hwork], rfl, hcount, rfl, herr, hports, hbytes,
    fun hbusy => absurd rfl hbusy⟩

/-! ### The step -/

theorem sampledPorts_of_sameVisible : s₁.sampledPorts = s₂.sampledPorts := by
  obtain ⟨-, -, -, -, -, -, hports, -, -⟩ := h
  rw [State.sampledPorts, State.sampledPorts, hports]

theorem accepts_of_sameVisible {w : CmdWord} (ha : s₁.Accepts w) : s₂.Accepts w := by
  obtain ⟨hr, hf, hv, hcmd⟩ := ha
  have hsampled := sampledPorts_of_sameVisible h
  obtain ⟨-, -, hfsm, -⟩ := h
  exact ⟨hsampled ▸ hr, hfsm ▸ hf, hsampled ▸ hv, hsampled ▸ hcmd⟩

/-- From two states that look the same the same kind of edge is taken, to two that look the same. -/
theorem stepTo_of_sameVisible {t₁ : State} (hstep : StepTo s₁ t₁) : ∃ t₂, StepTo s₂ t₂ ∧ t₁.sameVisible t₂ := by
  have hdrop := sameVisible_dropPorts h
  have hsampled := sampledPorts_of_sameVisible h
  have haccepts : ∀ {w}, s₁.Accepts w → s₂.Accepts w := accepts_of_sameVisible h
  obtain ⟨-, -, hfsm, hcount, -⟩ := h
  cases hstep with
  | reset hr => exact ⟨_, .reset (hsampled ▸ hr), sameVisible_resetStep hdrop⟩
  | quiet hr hf hv => exact ⟨_, .quiet (hsampled ▸ hr) (hfsm ▸ hf) (hsampled ▸ hv), hdrop⟩
  | run hr hf => exact ⟨_, .run (hsampled ▸ hr) (hfsm ▸ hf), sameVisible_runEdge hdrop hf⟩
  | fin hr hf => exact ⟨_, .fin (hsampled ▸ hr) (hfsm ▸ hf), sameVisible_finEdge hdrop hf⟩
  | illegal ha hw => exact ⟨_, .illegal (haccepts ha) hw, sameVisible_raise hdrop _⟩
  | nop ha => exact ⟨_, .nop (haccepts ha), hdrop⟩
  | writeByte x ha => exact ⟨_, .writeByte x (haccepts ha), sameVisible_appendByte hdrop x⟩
  | clearInput ha => exact ⟨_, .clearInput (haccepts ha), sameVisible_clearCount hdrop⟩
  | startRejected ha hc => exact ⟨_, .startRejected (haccepts ha) (hcount ▸ hc), sameVisible_raise hdrop _⟩
  | startLoaded ha hc => exact ⟨_, .startLoaded (haccepts ha) (hcount ▸ hc), sameVisible_loadTransform hdrop hc⟩
  | resetState ha => exact ⟨_, .resetState (haccepts ha), sameVisible_reloadHash hdrop⟩
  | clearStatus ha => exact ⟨_, .clearStatus (haccepts ha), sameVisible_clearFlags hdrop⟩
end

/-- Settles O46: equal outputs now, and a step that keeps what looks the same. -/
theorem hiddenStateUnobservable : Obligations.HiddenStateUnobservable := fun s₁ s₂ h => by
  obtain ⟨t₁, ht₁⟩ := stepIsTotal s₁
  obtain ⟨t₂, ht₂, hsame⟩ := stepTo_of_sameVisible h (stepTo_of_step ht₁)
  exact ⟨status_of_sameVisible h, dout_of_sameVisible h, cmdReady_of_sameVisible h,
    t₁, t₂, ht₁, step_of_stepTo ht₂, hsame⟩

end Sys2Proof.Machine
end

section
/-! PROOF. Words and bytes of the datapath: the rotation (00_scope.md R10), the window (42_message_schedule.md R124), and the
big-endian encoder with its decoder (44_digest_encoder.md R173). -/

namespace Sys2Proof.Machine

/-! ### The rotation (R10) -/

/-- Settles O24: a bit that stays below bit 32 comes from the left shift, one that would leave it from the right shift. -/
theorem rotlMovesBits : Obligations.RotlMovesBits := fun x n i hpos hlt hi => by
  rw [rotl, BitVec.getLsbD_or, BitVec.getLsbD_shiftLeft, BitVec.getLsbD_ushiftRight]
  by_cases hwrap : i + n < 32
  · have hhigh : 32 ≤ 32 - n + (i + n) := by omega
    rw [Nat.mod_eq_of_lt hwrap, Nat.add_sub_cancel, BitVec.getLsbD_of_ge x _ hhigh]
    simp [hwrap]
  · have hmod : (i + n) % 32 = i + n - 32 := by omega
    have hback : 32 - n + (i + n - 32) = i := by omega
    have hlow : i + n - 32 < n := by omega
    rw [hmod, hback]
    simp [hlow]

/-! ### The window (R124) -/

/-- Settles O28: `windowAfter_get` bounds only the place of the word in the schedule, not the round. -/
theorem windowAgreesWithSchedule : Obligations.WindowAgreesWithSchedule := fun b t j _ => windowAfter_get b t j

/-! ### The encoder and the decoder (R173, R100) -/

/-- A word is made of its four bytes. -/
theorem wordOfBytes_byteOfWord (x : Word) :
    wordOfBytes (byteOfWord x 0) (byteOfWord x 1) (byteOfWord x 2) (byteOfWord x 3) = x := by
  simp only [wordOfBytes, byteOfWord]
  iterate 3 rw [BitVec.extractLsb'_append_extractLsb'_eq_extractLsb' (by rfl)]
  exact BitVec.extractLsb'_eq_self

/-- Byte `k` of a word is byte `k` of the four it is made of. -/
theorem byteOfWord_wordOfBytes (b : Fin 4 → Byte) (k : Fin 4) :
    byteOfWord (wordOfBytes (b 0) (b 1) (b 2) (b 3)) k.val = b k := by
  simp only [byteOfWord, wordOfBytes, BitVec.extractLsb'_append_eq_ite]
  fin_cases k <;> simp

theorem beDecode_beEncode (h : Vector Word 5) : beDecode (beEncode h) = h := by
  refine Vector.ext fun i hi => ?_
  have hword := beDecode_get (beEncode h) ⟨i, hi⟩
  obtain rfl | rfl | rfl | rfl | rfl : i = 0 ∨ i = 1 ∨ i = 2 ∨ i = 3 ∨ i = 4 := by omega
  all_goals exact hword.trans (wordOfBytes_byteOfWord _)

theorem beEncode_beDecode (x : Vector Byte 20) : beEncode (beDecode x) = x := by
  refine Vector.ext fun j hj => ?_
  have hplace : 4 * (j / 4) + j % 4 = j := by omega
  calc (beEncode (beDecode x))[j]
      = byteOfWord (beDecode x)[j / 4] (j % 4) := beEncode_get _ ⟨j, hj⟩
    _ = x[4 * (j / 4) + j % 4] := by
        rw [beDecode_get x ⟨j / 4, by omega⟩]
        exact byteOfWord_wordOfBytes (fun k => x[4 * (j / 4) + k.val]) ⟨j % 4, by omega⟩
    _ = x[j] := by simp only [hplace]

/-- Settles O32: word by word one way, byte by byte the other. -/
theorem encoderInvertsDecoder : Obligations.EncoderInvertsDecoder := ⟨beDecode_beEncode, beEncode_beDecode⟩

end Sys2Proof.Machine
end

section
/-! PROOF. The lines of a command stream (30_encoding.md R76, R77): what each sends, and when it is refused. -/

namespace Sys2Proof.Machine

/-- R76: an operand of a stream is in range up to 255. -/
theorem operandInRange_iff {x : Nat} : operandInRange x = true ↔ x ≤ 255 := decide_eq_true_iff

/-- R77: LOAD20 and HASH20 take twenty operands in range. -/
theorem twentyOperands_iff {xs : List Nat} : twentyOperands xs = true ↔ xs.length = 20 ∧ ∀ x ∈ xs, x ≤ 255 := by
  simp [twentyOperands, operandInRange]

theorem twentyOperands_eq_false_iff {xs : List Nat} :
    twentyOperands xs = false ↔ xs.length ≠ 20 ∨ ∃ x ∈ xs, 255 < x := by
  rw [← Bool.not_eq_true, twentyOperands_iff, not_and_or]
  simp

/-! ### What each line does -/

/-- R76: a WRITE_BYTE line. -/
theorem lineActs_writeByte (x : Nat) :
    lineActs (.command .writeByte [x]) =
      if x ≤ 255 then some [.send (0x01#8 ++ BitVec.ofNat 8 x)] else none := by
  by_cases h : x ≤ 255
  · simp [lineActs, SourceLine.wellFormed, commandOf, operandInRange, encode_writeByte, h]
  · simp [lineActs, SourceLine.wellFormed, operandInRange, h]

/-- R76: a line of another mnemonic has no operand. -/
theorem lineActs_operand {m : Mnemonic} (hm : m ≠ .writeByte) (x : Nat) (xs : List Nat) :
    lineActs (.command m (x :: xs)) = none := by
  cases m with
  | writeByte => exact absurd rfl hm
  | _ => rfl

/-- Such a line without one sends its command. -/
theorem lineActs_noOperand {m : Mnemonic} (hm : m ≠ .writeByte) :
    ∃ i, lineActs (.command m []) = some [.send (encode i)] := by
  cases m with
  | writeByte => exact absurd rfl hm
  | nop => exact ⟨.nop, rfl⟩
  | clearInput => exact ⟨.clearInput, rfl⟩
  | start => exact ⟨.start, rfl⟩
  | resetState => exact ⟨.resetState, rfl⟩
  | clearStatus => exact ⟨.clearStatus, rfl⟩

theorem lineActs_rawWord (w : Nat) :
    lineActs (.rawWord w) = if w < 65536 then some [.send (BitVec.ofNat 16 w)] else none := by
  simp [lineActs, SourceLine.wellFormed]

/-- The words of LOAD20 (R77). -/
theorem load20_sends (xs : List Nat) :
    (load20 xs).map (fun i => HostAct.send (encode i)) =
      .send 0x0200#16 :: xs.map fun x => .send (0x01#8 ++ BitVec.ofNat 8 x) := by
  simp only [load20, List.map_cons, List.map_map]
  rfl

/-- The words of HASH20 (R77). -/
theorem hash20_sends (xs : List Nat) :
    (hash20 xs).map (fun i => HostAct.send (encode i)) =
      .send 0x0200#16 :: (xs.map fun x => .send (0x01#8 ++ BitVec.ofNat 8 x)) ++ [.send 0x0300#16] := by
  rw [hash20, List.map_append, load20_sends]
  rfl

theorem lineActs_load20 (xs : List Nat) :
    lineActs (.load20 xs) =
      if twentyOperands xs then some (.send 0x0200#16 :: xs.map fun x => .send (0x01#8 ++ BitVec.ofNat 8 x)) else none := by
  rw [← load20_sends]
  rfl

theorem lineActs_hash20 (xs : List Nat) :
    lineActs (.hash20 xs) =
      if twentyOperands xs then
        some (.send 0x0200#16 :: (xs.map fun x => .send (0x01#8 ++ BitVec.ofNat 8 x)) ++ [.send 0x0300#16])
      else none := by
  rw [← hash20_sends]
  rfl

/-! ### When a line is refused -/

theorem lineActs_writeByte_eq_none_iff (xs : List Nat) :
    lineActs (.command .writeByte xs) = none ↔ ¬ ∃ x, xs = [x] ∧ x ≤ 255 := by
  match xs with
  | [] => simp [lineActs, SourceLine.wellFormed]
  | [x] => simp [lineActs_writeByte]
  | x :: y :: xs => simp [lineActs, SourceLine.wellFormed]

theorem lineActs_command_eq_none_iff {m : Mnemonic} (xs : List Nat) (hm : m ≠ .writeByte) :
    lineActs (.command m xs) = none ↔ xs ≠ [] := by
  cases xs with
  | nil =>
    obtain ⟨i, hi⟩ := lineActs_noOperand hm
    simp [hi]
  | cons x xs => simp [lineActs_operand hm]

/-- Settles O5: the refusals, then what each kind of line sends. -/
theorem sourceLinesSpell : Obligations.SourceLinesSpell := by
  refine ⟨lineActs_writeByte_eq_none_iff, fun _ => lineActs_command_eq_none_iff, fun w => ?_, fun xs => ?_, fun x hx => ?_,
    rfl, rfl, rfl, rfl, rfl, fun w => ?_, rfl, fun xs hlen hrange => ?_⟩
  · simp [lineActs_rawWord]
  · rw [lineActs_load20, lineActs_hash20, ← twentyOperands_eq_false_iff]
    simp
  · rw [lineActs_writeByte, if_pos hx]
  · rw [lineActs_rawWord, if_pos w.isLt, BitVec.ofNat_toNat, BitVec.setWidth_eq]
  · have htwenty := twentyOperands_iff.mpr ⟨hlen, hrange⟩
    rw [lineActs_load20, lineActs_hash20, if_pos htwenty, if_pos htwenty]
    exact ⟨rfl, rfl⟩

end Sys2Proof.Machine
end

section
/-! PROOF. A transform among other edges: a command held through it (45_commands.md R193, 70_reset_and_hazards.md R275), and
what its digest depends on in pure mode (10_state.md R37, 45_commands.md R205). -/

namespace Sys2Proof.Machine

/-- A run of one edge is a step. -/
theorem runEdges_one {s t : State} (h : step s = .next t) : runEdges 1 s = .next t := by
  rw [runEdges_succ 0 h, runEdges_zero]

/-- The ports at the coming edges play no part in the transform. -/
theorem wholeTransform_withPorts (s : State) (ps : List PortIn) :
    wholeTransform { s with ports := ps } = { wholeTransform s with ports := ps } := rfl

/-- Settles O49: the transform uses 82 edges whatever is held on the port (`runEdges_start`), and leaves the core in IDLE with
the command still offered. -/
theorem heldCommandTakenAfterTransform : Obligations.HeldCommandTakenAfterTransform := fun s i rest hf hc hp => by
  have hports : s.ports = .offer 0x0300#16 :: List.replicate 81 (.offer (encode i)) ++ (.offer (encode i) :: rest) := by
    rw [hp, List.replicate_succ', List.cons_append, List.append_assoc, List.singleton_append, List.cons_append]
  have hheld : ∀ p ∈ List.replicate 81 (PortIn.offer (encode i)), p.rst = false := fun p hmem => by
    rw [List.eq_of_mem_replicate hmem]
    rfl
  have htransform := runEdges_start hf hc List.length_replicate hheld hports
  rw [wholeTransform_withPorts] at htransform
  obtain ⟨t, ht⟩ := exec_total i { wholeTransform s with ports := rest }
  have htaken : step { wholeTransform s with ports := .offer (encode i) :: rest } = .next t := by
    rw [← ht]
    exact step_of_command rfl rfl rfl rfl (decode_encode i)
  exact ⟨htransform, by rw [runEdges_add 1 htransform, runEdges_one htaken, ht]⟩

/-- R140: in pure mode the hash state before a transform is not read. -/
theorem transformHash_pure (h₁ h₂ : Vector Word 5) (x : Vector Byte 20) :
    transformHash false h₁ x = transformHash false h₂ x := by
  simp only [transformHash, seedOf, Bool.false_eq_true, if_false]

/-- Settles O50: both runs are transforms, and `dout` shows the `H` they leave. -/
theorem pureModeForgetsHistory : Obligations.PureModeForgetsHistory := by
  intro s₁ s₂ held₁ rest₁ held₂ rest₂ hacc₁ hacc₂ hf₁ hf₂ hc₁ hc₂ hibuf hlen₁ hlen₂ hr hp₁ hp₂
  obtain ⟨hr₁, hr₂⟩ := List.forall_mem_append.mp hr
  refine ⟨_, _, runEdges_start hf₁ hc₁ hlen₁ hr₁ hp₁, runEdges_start hf₂ hc₂ hlen₂ hr₂ hp₂, dout_congr ?_⟩
  change transformHash s₁.accumulate s₁.h s₁.ibuf = transformHash s₂.accumulate s₂.h s₂.ibuf
  rw [hacc₁, hacc₂, hibuf]
  exact transformHash_pure _ _ _

end Sys2Proof.Machine
end

section
/-! PROOF. Loading an input (10_state.md R28, 45_commands.md R201, R202): CLEAR_INPUT and any number of WRITE_BYTEs, and the
START that rejects the wrong number of them (60_exceptions.md R232). -/

namespace Sys2Proof.Machine

/-! ### Any number of bytes -/

/-- The effect of one WRITE_BYTE for each of the bytes `xs`, in order. -/
def appendBytes (xs : List Byte) (s : State) : State := xs.foldl (fun u x => appendByte x u) s

@[simp] theorem appendBytes_nil (s : State) : appendBytes [] s = s := rfl

@[simp] theorem appendBytes_cons (x : Byte) (xs : List Byte) (s : State) :
    appendBytes (x :: xs) s = appendBytes xs (appendByte x s) := rfl

/-- Bytes touch IBUF and IN_COUNT alone. -/
theorem appendBytes_frame (xs : List Byte) (s : State) :
    appendBytes xs s = { s with ibuf := (appendBytes xs s).ibuf, inCount := (appendBytes xs s).inCount } := by
  induction xs generalizing s with
  | nil => rfl
  | cons x xs ih => exact ih (appendByte x s)

@[simp] theorem appendBytes_accumulate (xs : List Byte) (s : State) : (appendBytes xs s).accumulate = s.accumulate := by
  rw [appendBytes_frame]

@[simp] theorem appendBytes_h (xs : List Byte) (s : State) : (appendBytes xs s).h = s.h := by
  rw [appendBytes_frame]

@[simp] theorem appendBytes_work (xs : List Byte) (s : State) : (appendBytes xs s).work = s.work := by
  rw [appendBytes_frame]

@[simp] theorem appendBytes_wr (xs : List Byte) (s : State) : (appendBytes xs s).wr = s.wr := by
  rw [appendBytes_frame]

@[simp] theorem appendBytes_t (xs : List Byte) (s : State) : (appendBytes xs s).t = s.t := by
  rw [appendBytes_frame]

@[simp] theorem appendBytes_fsm (xs : List Byte) (s : State) : (appendBytes xs s).fsm = s.fsm := by
  rw [appendBytes_frame]

@[simp] theorem appendBytes_done (xs : List Byte) (s : State) : (appendBytes xs s).done = s.done := by
  rw [appendBytes_frame]

@[simp] theorem appendBytes_err (xs : List Byte) (s : State) : (appendBytes xs s).err = s.err := by
  rw [appendBytes_frame]

@[simp] theorem appendBytes_ports (xs : List Byte) (s : State) : (appendBytes xs s).ports = s.ports := by
  rw [appendBytes_frame]

/-- R28: the counter counts the bytes and stays at 21. -/
theorem appendBytes_inCount (xs : List Byte) {s : State} (hc : s.inCount.toNat ≤ 21) :
    (appendBytes xs s).inCount.toNat = min (s.inCount.toNat + xs.length) 21 := by
  induction xs generalizing s with
  | nil => exact (Nat.min_eq_left hc).symm
  | cons x xs ih =>
    have hnext : (appendByte x s).inCount.toNat = min (s.inCount.toNat + 1) 21 := by
      rw [appendByte_inCount, nextCount_toNat]
      split <;> omega
    rw [appendBytes_cons, ih (by omega), hnext, List.length_cons]
    omega

/-- R201: a place below the counter is not written again. -/
theorem appendBytes_ibuf_below (xs : List Byte) {s : State} {j : Fin 20} (hj : j.val < s.inCount.toNat) :
    (appendBytes xs s).ibuf[j.val] = s.ibuf[j.val] := by
  induction xs generalizing s with
  | nil => rfl
  | cons x xs ih =>
    have hnext : j.val < (appendByte x s).inCount.toNat := by
      rw [appendByte_inCount, nextCount_toNat]
      split <;> omega
    rw [appendBytes_cons, ih hnext, appendByte_ibuf, storeByte_get _ _ _ _ j.isLt, if_neg (by omega)]

/-- R201: the bytes stand in order from the counter's place on, as far as there is room. -/
theorem appendBytes_ibuf_written (xs : List Byte) {s : State} {j : Fin 20} {k : Nat} {x : Byte}
    (hj : j.val = s.inCount.toNat + k) (hx : xs[k]? = some x) : (appendBytes xs s).ibuf[j.val] = x := by
  have := j.isLt
  induction xs generalizing s k with
  | nil => cases hx
  | cons y xs ih =>
    have hcount : (appendByte y s).inCount.toNat = s.inCount.toNat + 1 := by
      rw [appendByte_inCount, nextCount_toNat, if_pos (by omega)]
    rw [appendBytes_cons]
    cases k with
    | zero =>
      cases hx
      rw [appendBytes_ibuf_below xs (by omega), appendByte_ibuf, storeByte_get _ _ _ _ j.isLt, if_pos (by omega)]
    | succ k => exact ih (by omega) hx

/-- R201: a place past the last byte is not written. -/
theorem appendBytes_ibuf_above (xs : List Byte) {s : State} {j : Fin 20} (hj : s.inCount.toNat + xs.length ≤ j.val) :
    (appendBytes xs s).ibuf[j.val] = s.ibuf[j.val] := by
  have := j.isLt
  induction xs generalizing s with
  | nil => rfl
  | cons x xs ih =>
    rw [List.length_cons] at hj
    have hcount : (appendByte x s).inCount.toNat = s.inCount.toNat + 1 := by
      rw [appendByte_inCount, nextCount_toNat, if_pos (by omega)]
    rw [appendBytes_cons, ih (by omega), appendByte_ibuf, storeByte_get _ _ _ _ j.isLt, if_neg (by omega)]

/-! ### The edges of an input -/

/-- R201: one edge for each byte. -/
theorem runEdges_writeBytes {s : State} {xs : List Byte} {rest : List PortIn} (hf : s.fsm = .idle)
    (hp : s.ports = (xs.map fun x => .offer (0x01#8 ++ x)) ++ rest) :
    runEdges xs.length s = .next (appendBytes xs { s with ports := rest }) := by
  induction xs generalizing s with
  | nil => cases s; cases hp; rfl
  | cons x xs ih =>
    have hstep := step_of_command hf hp rfl rfl (decode_encode (.writeByte x))
    rw [List.length_cons, runEdges_succ _ hstep, ih (by exact hf) rfl]
    rfl

/-- R202, R201: CLEAR_INPUT, then one edge for each byte. -/
theorem runEdges_input {s : State} {xs : List Byte} {rest : List PortIn} (hf : s.fsm = .idle)
    (hp : s.ports = .offer 0x0200#16 :: (xs.map fun x => .offer (0x01#8 ++ x)) ++ rest) :
    runEdges (xs.length + 1) s = .next (appendBytes xs (clearCount { s with ports := rest })) := by
  have hstep := step_of_command hf hp rfl rfl (decode_encode .clearInput)
  rw [runEdges_succ _ hstep, runEdges_writeBytes (by exact hf) rfl]
  rfl

/-- R28: the count after an input. -/
theorem input_inCount (xs : List Byte) (s : State) :
    (appendBytes xs (clearCount s)).inCount.toNat = min xs.length 21 := by
  rw [appendBytes_inCount xs (by simp), clearCount_inCount]
  simp

/-- Settles O51: `appendBytes_ibuf_written` and `appendBytes_ibuf_above` from an empty counter, and the frame. -/
theorem bytesAreCountedAndStored : Obligations.BytesAreCountedAndStored := fun s xs rest hf hp => by
  let cleared := clearCount { s with ports := rest }
  exact ⟨appendBytes xs cleared, runEdges_input hf hp, input_inCount xs _,
    fun j x hx => appendBytes_ibuf_written xs (Nat.zero_add _).symm hx,
    fun j hj => appendBytes_ibuf_above xs ((Nat.zero_add _).le.trans hj),
    appendBytes_accumulate xs cleared, appendBytes_h xs cleared, appendBytes_work xs cleared, appendBytes_wr xs cleared,
    appendBytes_t xs cleared, (appendBytes_fsm xs cleared).trans hf, appendBytes_done xs cleared,
    appendBytes_err xs cleared, appendBytes_ports xs cleared⟩

/-- Settles O52: the count the START finds is twenty only for twenty bytes, so it is rejected. -/
theorem wrongLengthNeverHashed : Obligations.WrongLengthNeverHashed := fun s xs rest hf hlen hp => by
  let cleared := clearCount { s with ports := .offer 0x0300#16 :: rest }
  have hloaded : runEdges (xs.length + 1) s = .next (appendBytes xs cleared) := runEdges_input hf hp
  have hidle : (appendBytes xs cleared).fsm = .idle := (appendBytes_fsm xs cleared).trans hf
  have hcount : (appendBytes xs cleared).inCount.toNat = min xs.length 21 := input_inCount xs _
  have hwrong : (appendBytes xs cleared).inCount ≠ 20#5 := fun h => by
    rw [h, BitVec.toNat_ofNat] at hcount
    omega
  let before := { appendBytes xs cleared with ports := rest }
  have hrejected : step (appendBytes xs cleared) = .next (raise .invalidInputLength before) := by
    rw [step_of_command hidle (appendBytes_ports xs cleared) rfl rfl (decode_encode .start)]
    exact exec_start_of_other hwrong
  exact ⟨raise .invalidInputLength before, by rw [runEdges_add 1 hloaded, runEdges_one hrejected], rfl, hcount,
    appendBytes_h xs cleared, appendBytes_done xs cleared, hidle, rfl⟩

end Sys2Proof.Machine
end

section
/-! PROOF. A host that obeys the handshake gets what running its words one at a time gives (20_memory.md R58, 45_commands.md
R193, 70_reset_and_hazards.md R277). -/

namespace Sys2Proof.Machine

/-! ### One word at a time: `transact` -/

theorem startsTransform_iff {w : CmdWord} {s : State} :
    startsTransform w s = true ↔ w = 0x0300#16 ∧ s.inCount = 20#5 := by
  simp [startsTransform]

/-- R204: the whole effect of a START with twenty bytes. -/
theorem transact_of_starts {w : CmdWord} {s : State} (h : startsTransform w s = true) : transact w s = wholeTransform s := by
  obtain ⟨rfl, hc⟩ := startsTransform_iff.mp h
  exact if_pos hc

/-- Any other word has its whole effect at the accepting edge. -/
theorem accept_eq_transact {w : CmdWord} {s : State} (h : startsTransform w s = false) :
    accept w s = .next (transact w s) := by
  cases hw : decode w with
  | error e => simp only [accept, transact, hw]
  | ok i =>
    rw [accept_of_ok hw]
    simp only [transact, hw]
    cases i with
    | start =>
      have hc : s.inCount ≠ 20#5 := fun hc => by
        rw [startsTransform_iff.mpr ⟨decode_eq_ok_iff.mp hw, hc⟩] at h
        cases h
      rw [exec_start_of_other hc, if_neg hc]
    | _ => rfl

/-- No word's whole effect leaves a transform in flight. -/
theorem transact_fsm (w : CmdWord) {s : State} (hf : s.fsm = .idle) : (transact w s).fsm = .idle := by
  unfold transact
  cases decode w with
  | error e => exact hf
  | ok i =>
    cases i with
    | start =>
      dsimp only
      split
      · rfl
      · exact hf
    | _ => exact hf

theorem transact_ports (w : CmdWord) (s : State) : (transact w s).ports = s.ports := by
  unfold transact
  cases decode w with
  | error e => rfl
  | ok i =>
    cases i with
    | start => dsimp only; split <;> rfl
    | _ => rfl

/-! ### The script, edge by edge -/

/-- One edge of a script whose ports and step are known. -/
theorem runScript_succ {k k' : List HostAct} {s t : State} {p : PortIn} (n : Nat) (hk : scriptPorts s k = (p, k'))
    (hstep : step { s with ports := [p] } = .next t) : runScript (n + 1) k s = runScript n k' t := by
  simp only [runScript, scriptedStep, hk, hstep]

theorem withPorts_self {s : State} {ps : List PortIn} (hp : s.ports = ps) : { s with ports := ps } = s := by
  subst hp
  rfl

/-- R193: in IDLE the offered word is accepted and the script goes on. -/
theorem runScript_accept {w : CmdWord} {k : List HostAct} {s t : State} (n : Nat) (hf : s.fsm = .idle)
    (hp : s.ports = []) (h : accept w s = .next t) : runScript (n + 1) (.send w :: k) s = runScript n k t := by
  refine runScript_succ (p := .offer w) n ?_ ?_
  · rw [scriptPorts, State.cmdReady, hf]
    rfl
  · rw [step_cons (s := { s with ports := [.offer w] }) rfl, edge_of_offer (by exact hf), ← h]
    exact congrArg (accept w) (withPorts_self hp)

/-- R193, R77: while the core is busy a script that only sends keeps its words, and asserts no reset. -/
theorem scriptPorts_of_busy (ws : List CmdWord) {s : State} (hb : s.busy = true) :
    ∃ p, scriptPorts s (ws.map .send) = (p, ws.map .send) ∧ p.rst = false := by
  cases ws with
  | nil => exact ⟨.quiet, rfl, rfl⟩
  | cons w ws =>
    refine ⟨.offer w, ?_, rfl⟩
    rw [List.map_cons, scriptPorts, cmdReady_eq_not_busy, hb]
    rfl

/-- R191: the script waits while the rounds go on. -/
theorem runScript_afterRounds (ws : List CmdWord) {s : State} (hp : s.ports = []) (m k n : Nat) (h : n + m ≤ 80) :
    runScript (m + k) (ws.map .send) (s.afterRounds n) = runScript k (ws.map .send) (s.afterRounds (n + m)) := by
  induction m generalizing n with
  | zero => rw [Nat.zero_add, Nat.add_zero]
  | succ m ih =>
    obtain ⟨p, hports, hr⟩ := scriptPorts_of_busy ws (afterRounds_busy s n)
    have hstep : step { s.afterRounds n with ports := [p] } = .next (s.afterRounds (n + 1)) := by
      rw [afterRounds_withPorts, step_afterRounds (by omega) rfl hr]
      exact congrArg (fun u : State => Host.Outcome.next (u.afterRounds (n + 1))) (withPorts_self hp)
    rw [Nat.add_right_comm, runScript_succ _ hports hstep, ih (n + 1) (by omega), Nat.add_right_comm, Nat.add_assoc]

/-- R192: and through the FIN edge. -/
theorem runScript_fin (ws : List CmdWord) {s : State} (hp : s.ports = []) (k : Nat) :
    runScript (k + 1) (ws.map .send) (s.afterRounds 80) = runScript k (ws.map .send) (wholeTransform s) := by
  obtain ⟨p, hports, hr⟩ := scriptPorts_of_busy ws (afterRounds_busy s 80)
  refine runScript_succ k hports ?_
  rw [afterRounds_withPorts, step_afterRounds_fin rfl hr]
  exact congrArg (fun u : State => Host.Outcome.next (wholeTransform u)) (withPorts_self hp)

/-- R275, R276: one word of the script, through the last edge it occupies. -/
theorem runScript_send (w : CmdWord) (ws : List CmdWord) {s : State} (hf : s.fsm = .idle) (hp : s.ports = []) (k : Nat) :
    runScript (edgesOf w s + k) ((w :: ws).map .send) s = runScript k (ws.map .send) (transact w s) := by
  rw [edgesOf, List.map_cons]
  cases hw : startsTransform w s with
  | false =>
    rw [if_neg Bool.false_ne_true, Nat.add_comm, runScript_accept k hf hp (accept_eq_transact hw)]
  | true =>
    obtain ⟨rfl, hc⟩ := startsTransform_iff.mp hw
    have hload : accept 0x0300#16 s = .next (s.afterRounds 0) := execStart_of_twenty hc
    rw [if_pos rfl, show 82 + k = 80 + (k + 1) + 1 by omega, runScript_accept _ hf hp hload,
      runScript_afterRounds ws hp 80 (k + 1) 0 le_rfl, Nat.zero_add, runScript_fin ws hp, transact_of_starts hw]

/-- Settles O53, by induction on the words: each has its whole effect and leaves the core in IDLE for the next. -/
theorem commandsRunOneAtATime : Obligations.CommandsRunOneAtATime := fun ws s hf hp => by
  induction ws generalizing s with
  | nil => rfl
  | cons w ws ih =>
    rw [edgesOfAll, runScript_send w ws hf hp, ih _ (transact_fsm w hf) ((transact_ports w s).trans hp), List.foldl_cons]

end Sys2Proof.Machine
end

section
/-! PROOF. What scripts of several transforms leave in `H`: the chain of HASH20s (44_digest_encoder.md R172,
70_reset_and_hazards.md R276), and STARTs in a row (45_commands.md R205, R206). -/

namespace Sys2Proof.Machine

/-! ### Words in a row: `transact`, folded -/

/-- The whole effect of the words `ws`, one at a time: what `commandsRunOneAtATime` says a script of them does. -/
def transactAll (ws : List CmdWord) (s : State) : State := ws.foldl (fun u w => transact w u) s

theorem runScript_sends (ws : List CmdWord) {s : State} (hf : s.fsm = .idle) (hp : s.ports = []) :
    runScript (edgesOfAll ws s) (ws.map .send) s = .next (transactAll ws s) :=
  commandsRunOneAtATime ws s hf hp

@[simp] theorem transactAll_nil (s : State) : transactAll [] s = s := rfl

@[simp] theorem transactAll_cons (w : CmdWord) (ws : List CmdWord) (s : State) :
    transactAll (w :: ws) s = transactAll ws (transact w s) := rfl

theorem transactAll_append (ws vs : List CmdWord) (s : State) :
    transactAll (ws ++ vs) s = transactAll vs (transactAll ws s) := List.foldl_append

@[simp] theorem edgesOfAll_nil (s : State) : edgesOfAll [] s = 0 := rfl

@[simp] theorem edgesOfAll_cons (w : CmdWord) (ws : List CmdWord) (s : State) :
    edgesOfAll (w :: ws) s = edgesOf w s + edgesOfAll ws (transact w s) := rfl

theorem edgesOfAll_append (ws vs : List CmdWord) (s : State) :
    edgesOfAll (ws ++ vs) s = edgesOfAll ws s + edgesOfAll vs (transactAll ws s) := by
  induction ws generalizing s with
  | nil => simp
  | cons w ws ih => rw [List.cons_append, edgesOfAll_cons, ih, edgesOfAll_cons, transactAll_cons, Nat.add_assoc]

/-! ### Single words -/

/-- R276: every command but START occupies one edge. -/
theorem edgesOf_encode {i : Instr} (hi : i ≠ .start) (s : State) : edgesOf (encode i) s = 1 := by
  have hword : encode i ≠ 0x0300#16 := fun h => by
    have hstart : decode (encode i) = .ok .start := decode_eq_ok_iff.mpr h
    rw [decode_encode] at hstart
    exact hi (Except.ok.inj hstart)
  rw [edgesOf, if_neg fun h => hword (startsTransform_iff.mp h).1]

/-- R275: START with twenty bytes occupies 82. -/
theorem edgesOf_start {s : State} (hc : s.inCount = 20#5) : edgesOf 0x0300#16 s = 82 :=
  if_pos (startsTransform_iff.mpr ⟨rfl, hc⟩)

theorem transact_start {s : State} (hc : s.inCount = 20#5) : transact 0x0300#16 s = wholeTransform s :=
  transact_of_starts (startsTransform_iff.mpr ⟨rfl, hc⟩)

theorem transact_writeByte (x : Byte) (s : State) : transact (encode (.writeByte x)) s = appendByte x s := by
  rw [transact, decode_encode]

theorem transact_resetState (s : State) : transact (encode .resetState) s = reloadHash s := by
  rw [transact, decode_encode]

/-! ### WRITE_BYTEs in a row -/

theorem transactAll_writeBytes (xs : List Byte) (s : State) :
    transactAll (xs.map fun x => encode (.writeByte x)) s = appendBytes xs s := by
  induction xs generalizing s with
  | nil => rfl
  | cons x xs ih => rw [List.map_cons, transactAll_cons, transact_writeByte, ih, appendBytes_cons]

theorem edgesOfAll_writeBytes (xs : List Byte) (s : State) :
    edgesOfAll (xs.map fun x => encode (.writeByte x)) s = xs.length := by
  induction xs generalizing s with
  | nil => rfl
  | cons x xs ih =>
    rw [List.map_cons, edgesOfAll_cons, edgesOf_encode (by simp), ih, List.length_cons, Nat.add_comm]

/-! ### HASH20 -/

/-- The words of HASH20 (R77). -/
def hashWords (x : Vector Byte 20) : List CmdWord := (hash20 (x.toList.map BitVec.toNat)).map encode

theorem hashWords_eq (x : Vector Byte 20) :
    hashWords x = encode .clearInput :: (x.toList.map fun b => encode (.writeByte b)) ++ [0x0300#16] := by
  simp only [hashWords, hash20, load20, List.map_append, List.map_cons, List.map_map, Function.comp_def,
    BitVec.ofNat_toNat, BitVec.setWidth_eq]
  rfl

/-- A core with the twenty bytes of `x` loaded by LOAD20 (R77). -/
def loadBytes (x : Vector Byte 20) (s : State) : State := appendBytes x.toList (clearCount s)

theorem loadBytes_inCount (x : Vector Byte 20) (s : State) : (loadBytes x s).inCount = 20#5 := by
  apply BitVec.eq_of_toNat_eq
  rw [loadBytes, input_inCount, Vector.length_toList]
  rfl

theorem loadBytes_ibuf (x : Vector Byte 20) (s : State) : (loadBytes x s).ibuf = x := by
  refine Vector.ext fun j hj => ?_
  exact appendBytes_ibuf_written x.toList (j := ⟨j, hj⟩) (Nat.zero_add _).symm (by simp [hj])

/-- What HASH20 does: the transform on the bytes it loads. -/
def hashInput (x : Vector Byte 20) (s : State) : State := wholeTransform (loadBytes x s)

theorem transactAll_load (x : Vector Byte 20) (s : State) :
    transactAll (encode .clearInput :: x.toList.map fun b => encode (.writeByte b)) s = loadBytes x s := by
  rw [transactAll_cons, transactAll_writeBytes]
  rfl

theorem transactAll_hashWords (x : Vector Byte 20) (s : State) : transactAll (hashWords x) s = hashInput x s := by
  rw [hashWords_eq, transactAll_append, transactAll_load, transactAll_cons, transact_start (loadBytes_inCount x s),
    transactAll_nil, hashInput]

/-- R276: 1 + 20 + 82 edges. -/
theorem edgesOfAll_hashWords (x : Vector Byte 20) (s : State) : edgesOfAll (hashWords x) s = 103 := by
  rw [hashWords_eq, edgesOfAll_append, transactAll_load, edgesOfAll_cons, edgesOf_encode (by simp), edgesOfAll_writeBytes,
    Vector.length_toList, edgesOfAll_cons, edgesOf_start (loadBytes_inCount x s), edgesOfAll_nil]

/-! ### The chain of inputs (R172) -/

/-- One HASH20 for each of the inputs `xs`, in order. -/
def hashInputs (xs : List (Vector Byte 20)) (s : State) : State := xs.foldl (fun u x => hashInput x u) s

theorem transactAll_flatMap_hashWords (xs : List (Vector Byte 20)) (s : State) :
    transactAll (xs.flatMap hashWords) s = hashInputs xs s := by
  induction xs generalizing s with
  | nil => rfl
  | cons x xs ih => rw [List.flatMap_cons, transactAll_append, transactAll_hashWords, ih]; rfl

theorem edgesOfAll_flatMap_hashWords (xs : List (Vector Byte 20)) (s : State) :
    edgesOfAll (xs.flatMap hashWords) s = 103 * xs.length := by
  induction xs generalizing s with
  | nil => rfl
  | cons x xs ih => rw [List.flatMap_cons, edgesOfAll_append, edgesOfAll_hashWords, ih, List.length_cons]; omega

@[simp] theorem hashInput_accumulate (x : Vector Byte 20) (s : State) : (hashInput x s).accumulate = s.accumulate :=
  appendBytes_accumulate _ _

@[simp] theorem hashInput_err (x : Vector Byte 20) (s : State) : (hashInput x s).err = s.err := appendBytes_err _ _

@[simp] theorem hashInput_inCount (x : Vector Byte 20) (s : State) : (hashInput x s).inCount = 20#5 :=
  loadBytes_inCount x s

/-- R172: the digest starts from the `H` before it as the mode says. -/
theorem hashInput_h (x : Vector Byte 20) (s : State) : (hashInput x s).h = transformHash s.accumulate s.h x := by
  have hh : (loadBytes x s).h = s.h := appendBytes_h _ _
  have hacc : (loadBytes x s).accumulate = s.accumulate := appendBytes_accumulate _ _
  change transformHash (loadBytes x s).accumulate (loadBytes x s).h (loadBytes x s).ibuf = _
  rw [hacc, hh, loadBytes_ibuf]

theorem hashInputs_frame (xs : List (Vector Byte 20)) (s : State) :
    (hashInputs xs s).accumulate = s.accumulate ∧ (hashInputs xs s).err = s.err := by
  induction xs generalizing s with
  | nil => exact ⟨rfl, rfl⟩
  | cons x xs ih =>
    obtain ⟨hacc, herr⟩ := ih (hashInput x s)
    exact ⟨hacc.trans (hashInput_accumulate x s), herr.trans (hashInput_err x s)⟩

theorem hashInputs_h (xs : List (Vector Byte 20)) (s : State) :
    (hashInputs xs s).h = xs.foldl (fun h x => transformHash s.accumulate h x) s.h := by
  induction xs generalizing s with
  | nil => rfl
  | cons x xs ih => rw [List.foldl_cons, ← hashInput_h, ← hashInput_accumulate x s]; exact ih (hashInput x s)

/-- The last of the inputs leaves DONE set and its twenty bytes counted. -/
theorem hashInputs_done {xs : List (Vector Byte 20)} (hne : xs ≠ []) (s : State) :
    (hashInputs xs s).done = true ∧ (hashInputs xs s).inCount = 20#5 := by
  obtain ⟨ys, x, rfl⟩ := (List.eq_nil_or_concat' xs).resolve_left hne
  rw [hashInputs, List.foldl_concat]
  exact ⟨rfl, hashInput_inCount x _⟩

/-- Between HASH20s the core is in IDLE. -/
theorem hashInputs_fsm (xs : List (Vector Byte 20)) {s : State} (hf : s.fsm = .idle) : (hashInputs xs s).fsm = .idle := by
  induction xs generalizing s with
  | nil => exact hf
  | cons x xs ih => exact ih rfl

/-- Settles O54: the script sends the words of the HASH20s, 103 edges each, and `H` is the chain (`hashInputs_h`). -/
theorem hashChain : Obligations.HashChain := fun xs s hf hp => by
  have hscript : (xs.flatMap fun x => (hash20 (x.toList.map BitVec.toNat)).map fun i => HostAct.send (encode i)) =
      (xs.flatMap hashWords).map .send := by
    rw [List.map_flatMap]
    simp only [hashWords, List.map_map, Function.comp_def]
  have hrun := runScript_sends (xs.flatMap hashWords) hf hp
  rw [edgesOfAll_flatMap_hashWords, transactAll_flatMap_hashWords] at hrun
  obtain ⟨hacc, herr⟩ := hashInputs_frame xs s
  exact ⟨hashInputs xs s, by rw [hscript, hrun], hashInputs_h xs s, fun hne => hashInputs_done hne s,
    hashInputs_fsm xs hf, herr, hacc⟩

/-! ### STARTs in a row (R205, R206) -/

/-- R140: from `IV` the two modes agree. -/
theorem transformHash_iv (acc : Bool) (x : Vector Byte 20) :
    transformHash acc iv x = addWorking iv (rounds iv (inputBlock x)) := by
  have hseed : seedOf acc iv = iv := by cases acc <;> rfl
  rw [transformHash, hseed]

/-- In pure mode they do from any `H`. -/
theorem transformHash_pure_eq (h : Vector Word 5) (x : Vector Byte 20) :
    transformHash false h x = addWorking iv (rounds iv (inputBlock x)) := by
  rw [transformHash_pure h iv, transformHash_iv]

theorem wholeTransform_h (s : State) : (wholeTransform s).h = transformHash s.accumulate s.h s.ibuf := rfl

theorem wholeTransform_inCount (s : State) : (wholeTransform s).inCount = s.inCount := rfl

/-- R206: RESET_STATE and a START, 1 + 82 edges. -/
theorem runScript_resetState_start {s : State} (hf : s.fsm = .idle) (hc : s.inCount = 20#5) (hp : s.ports = []) :
    runScript 83 [.send 0x0400#16, .send 0x0300#16] s = .next (wholeTransform (reloadHash s)) := by
  have hc' : (reloadHash s).inCount = 20#5 := hc
  have hrun := runScript_sends [encode .resetState, 0x0300#16] hf hp
  rw [edgesOfAll_cons, edgesOf_encode (by simp), transact_resetState, edgesOfAll_cons, edgesOf_start hc', edgesOfAll_nil,
    transactAll_cons, transact_resetState, transactAll_cons, transact_start hc', transactAll_nil] at hrun
  exact hrun

/-- R205: two STARTs, 82 edges each. -/
theorem runScript_start_start {s : State} (hf : s.fsm = .idle) (hc : s.inCount = 20#5) (hp : s.ports = []) :
    runScript 164 [.send 0x0300#16, .send 0x0300#16] s = .next (wholeTransform (wholeTransform s)) := by
  have hc' : (wholeTransform s).inCount = 20#5 := (wholeTransform_inCount s).trans hc
  have hrun := runScript_sends [0x0300#16, 0x0300#16] hf hp
  rw [edgesOfAll_cons, edgesOf_start hc, transact_start hc, edgesOfAll_cons, edgesOf_start hc', edgesOfAll_nil,
    transactAll_cons, transact_start hc, transactAll_cons, transact_start hc', transactAll_nil] at hrun
  exact hrun

/-- Settles O55: the second script's digest is by definition made from the first's `H`. -/
theorem repeatedStarts : Obligations.RepeatedStarts := fun s hf hc hp => by
  have htwice : (wholeTransform (wholeTransform s)).h =
      transformHash s.accumulate (transformHash s.accumulate s.h s.ibuf) s.ibuf := rfl
  refine ⟨⟨_, runScript_resetState_start hf hc hp, ?_⟩, ⟨_, runScript_start_start hf hc hp, htwice, fun hpure => ?_⟩⟩
  · rw [wholeTransform_h, reloadHash_h, reloadHash_ibuf, transformHash_iv]
  · rw [htwice, hpure, transformHash_pure_eq]

end Sys2Proof.Machine
end
